-- ==== Sys2Proof/Word.lean ====
section
/-! DEFINITION. The widths of the block's values (00_scope.md R7, R70). -/

namespace Sys2Proof

/-- A byte: the checksum accumulators, the ERR mask, a command byte, a bus byte (R7). -/
abbrev Byte := BitVec 8

/-- A 16-bit register value, and RESP (R7, R29). -/
abbrev Value := BitVec 16

/-- A 7-bit device bus address (R7). -/
abbrev BusAddr := BitVec 7

/-- One 32-bit command word (R70). -/
abbrev CommandWord := BitVec 32

end Sys2Proof
end

