-- ==== Sys2Proof/Config.lean ====
section
/-! DEFINITION. What is fixed for the block (00_scope.md section 4), and the free values the spec leaves open. -/

namespace Sys2Proof

/-- P_POLY, the generator polynomial with its x⁸ term implicit (R6). -/
def Config.pPoly : Byte := 0x07#8

/-- P_ADDR_DEFAULT, the bus address after reset (R8). -/
def Config.pAddrDefault : BusAddr := 0x5A#7

/-- P_BCAST_ADDR, the broadcast address (R8). -/
def Config.pBcastAddr : BusAddr := 0x00#7

/-- P_READ_LEN, the number of bytes a register read requests (R9). -/
def Config.pReadLen : Nat := 3

/-- P_BCAST_SUPPRESS_MASK, the error bits the broadcast rule clears (R11, 90_conflicts.md C3). The operations take the
mask as an argument, so that the other reading, 0x0F, can be studied; the machine uses this value (log entry 12). -/
def Config.pBcastSuppressMask : Byte := 0x06#8

/-- T_TURNAROUND (R10): OPEN in the spec, so it has no body here and nothing can be proved of its value (log entry 4). -/
opaque Config.tTurnaround : Nat

/-- The bus agent's free moves (R55, R123), one for each wait of the block that no scripted move of `State.busIn`
covers: `some b`, it answers with byte b; `none`, it does not answer in this step. It has no body: the answers are
draws, and so is whether they come (log entry 2). -/
opaque Config.busDraw : Nat → Option Byte

end Sys2Proof
end

