-- ==== Sys2Proof/Machine/Checksum.lean ====
section
/-! DEFINITION. The CRC-8 step function and the checksum of a byte sequence (40_crc_engine.md R90, R91). -/

namespace Sys2Proof.Machine

/-- One of the eight rounds: shift left, and XOR the polynomial if the high bit was set before the shift (R90). -/
def crcRound (p a : Byte) : Byte := if a[7] then (a <<< 1) ^^^ p else a <<< 1

/-- n rounds. -/
def crcRounds (p : Byte) : Nat → Byte → Byte
  | 0, a => a
  | n + 1, a => crcRounds p n (crcRound p a)

/-- crc8_step: fold one byte into an accumulator under polynomial p (R90). -/
def crc8Step (p acc b : Byte) : Byte := crcRounds p 8 (acc ^^^ b)

/-- crc8: the left fold of the step from 0 (R91). -/
def crc8 (p : Byte) (bytes : List Byte) : Byte := bytes.foldl (crc8Step p) 0x00#8

end Sys2Proof.Machine
end

