-- ==== Sys2Proof/Machine/Flags.lean ====
section
/-! DEFINITION. Every computation of ERR bits (10_state.md R25, R26; 41_frame_builder.md R110, R111, R116, R120, R127). -/

namespace Sys2Proof.Machine

/-- TOO_LONG, bit 0 (R25). -/
def errTooLong : Byte := 0x01#8
/-- ADDR_NACK, bit 1 (R25). -/
def errAddrNack : Byte := 0x02#8
/-- DATA_NACK, bit 2 (R25). -/
def errDataNack : Byte := 0x04#8
/-- OTHER, bit 3 (R25). -/
def errOther : Byte := 0x08#8
/-- PEC, bit 4 (R25). -/
def errPec : Byte := 0x10#8
/-- SEM, bit 5, the host's (R25). -/
def errSem : Byte := 0x20#8
/-- CORRUPT, bit 6, the host's (R25). -/
def errCorrupt : Byte := 0x40#8
/-- ERR_TRANSPORT (R25). -/
def errTransport : Byte := 0x0F#8
/-- ERR_FRAME_OWNED: the bits a frame command can set (R25). -/
def errFrameOwned : Byte := 0x1F#8
/-- ERR_HOST_OWNED: the bits only the host sets (R25). -/
def errHostOwned : Byte := 0x60#8
/-- The defined bits of ERR; bit 7 reads 0 and a write to it is ignored (R25). -/
def errDefined : Byte := 0x7F#8

/-- status_bits: the ERR bits of a transport status code (R54, R111). -/
def statusBits (st : Byte) : Byte :=
  match st.toNat with
  | 0 => 0x00#8
  | 1 => errTooLong
  | 2 => errAddrNack
  | 3 => errDataNack
  | _ => errOther

/-- ERR after the start-of-frame clear (R110). -/
def startClear (err : Byte) : Byte := err &&& ~~~errFrameOwned

/-- The PEC bit of a computed and a received PEC (R116). -/
def pecBits (computed received : Byte) : Byte := if computed = received then 0x00#8 else errPec

/-- ERR after the broadcast rule with the given mask (R120). -/
def suppressBroadcast (mask : Byte) (a : BusAddr) (err : Byte) : Byte :=
  if a = Config.pBcastAddr then err &&& ~~~mask else err

/-- frame_err: ERR[4:0] after a frame command as one function (R127). The machine does not use it: it follows the order of
R114 and R118, and a statement says that the two agree. -/
def frameErr (mask st : Byte) (mismatch : Bool) (a : BusAddr) : Byte :=
  let t := statusBits st ||| (if mismatch then errPec else 0x00#8)
  if a = Config.pBcastAddr then t &&& ~~~mask else t

end Sys2Proof.Machine
end

