-- ==== Sys2Proof/Syntax.lean ====
section
/-! DEFINITION. The six commands of the opcode map (30_encoding.md R75), one constructor per row of the opcode table. -/

namespace Sys2Proof

/-- A decoded command (R75, R80). Ignored fields of the word are no operands (R76). -/
inductive Instr where
  /-- CRC.RESET (R92). -/
  | crcReset
  /-- CRC.UPDATE: b is the data byte (R93). -/
  | crcUpdate (b : Byte)
  /-- FRAME.READ: c is the device command byte (R114). -/
  | frameRead (c : Byte)
  /-- FRAME.WRITE: c is the device command byte, v the value (R118). -/
  | frameWrite (c : Byte) (v : Value)
  /-- REG.READ: i is the block register index (R140). -/
  | regRead (i : Byte)
  /-- REG.WRITE: i is the block register index, v the value (R142). -/
  | regWrite (i : Byte) (v : Value)
  deriving DecidableEq, Repr

end Sys2Proof
end

