-- ==== Sys2Proof/WellFormed.lean ====
section
/-! DEFINITION. Which commands are well formed: the ones with a defined operand (30_encoding.md R78). -/

namespace Sys2Proof

/-- A block register index is defined when it is 0x00 to 0x05 (10_state.md R33). -/
def regIndexDefined (i : Byte) : Bool := i ≤ 0x05#8

/-- A command is well formed when its register index, if it has one, is defined. CRC.UPDATE, FRAME.READ and FRAME.WRITE
have no reserved operand value (R78). -/
def Instr.wellFormed : Instr → Bool
  | .crcReset => true
  | .crcUpdate _ => true
  | .frameRead _ => true
  | .frameWrite _ _ => true
  | .regRead i => regIndexDefined i
  | .regWrite i _ => regIndexDefined i

end Sys2Proof
end

