-- ==== Sys2Proof/Decode.lean ====
section
/-! DEFINITION. The command word's fields, the decoder and the encoder (30_encoding.md R70 to R80). -/

namespace Sys2Proof

/-- Why a word is no command; the names are those of R80. -/
inductive DecodeRefusal where
  /-- RSV_NONZERO: bits 7:4 are not 0000 (R72, R77). -/
  | rsvNonzero
  /-- RESERVED_OP: OP is 0x0 or 0x7 to 0xF (R77). -/
  | reservedOp
  /-- RESERVED_INDEX: REG.READ or REG.WRITE of an index above 0x05 (R78). -/
  | reservedIndex
  deriving DecidableEq, Repr

/-- What decoding a word gives: a command, or the reason there is none (R80). -/
inductive Decoded where
  | command (i : Instr)
  | refused (r : DecodeRefusal)
  deriving DecidableEq, Repr

/-- OP, bits 3:0 (R70, R71). -/
def fieldOp (w : CommandWord) : BitVec 4 := w.extractLsb' 0 4

/-- RSV, bits 7:4 (R70, R72). -/
def fieldRsv (w : CommandWord) : BitVec 4 := w.extractLsb' 4 4

/-- B, bits 15:8 (R70, R73). -/
def fieldB (w : CommandWord) : Byte := w.extractLsb' 8 8

/-- V, bits 31:16 (R70, R74). -/
def fieldV (w : CommandWord) : Value := w.extractLsb' 16 16

/-- A register access command, or the refusal of its reserved index (R78, R80). -/
def decodeRegAccess (index : Byte) (i : Instr) : Decoded :=
  if regIndexDefined index then .command i else .refused .reservedIndex

/-- The operation OP selects, with its operands (R71, R75). -/
def decodeOp (op : BitVec 4) (b : Byte) (v : Value) : Decoded :=
  match op.toNat with
  | 1 => .command .crcReset
  | 2 => .command (.crcUpdate b)
  | 3 => .command (.frameRead b)
  | 4 => .command (.frameWrite b v)
  | 5 => decodeRegAccess b (.regRead b)
  | 6 => decodeRegAccess b (.regWrite b v)
  | _ => .refused .reservedOp

/-- The decoding function of R80, total on every word. -/
def decode (w : CommandWord) : Decoded :=
  if fieldRsv w = 0#4 then decodeOp (fieldOp w) (fieldB w) (fieldV w) else .refused .rsvNonzero

/-- The command of a decoded word, if there is one. -/
def Decoded.command? : Decoded → Option Instr
  | .command i => some i
  | .refused _ => none

/-- The word whose low `nbits` bits are those of w, the bits above them 0. The block stores no word (R64): a command is
one 32-bit number handed over whole, so the table's numbering of the bits is the word's own (log entry 15). -/
def tableWord (nbits w : Nat) : CommandWord := BitVec.ofNat 32 (w % 2 ^ nbits)

/-- The command the decoder reads from an opcode-table word. -/
def decodeTableWord (nbits w : Nat) : Option Instr := (decode (tableWord nbits w)).command?

/-- A word from its fields, V : B : RSV : OP (R70). -/
def packWord (v : Value) (b : Byte) (op : BitVec 4) : CommandWord := v ++ b ++ 0#4 ++ op

/-- OP of a command (R75). -/
def Instr.opcode : Instr → BitVec 4
  | .crcReset => 0x1#4
  | .crcUpdate _ => 0x2#4
  | .frameRead _ => 0x3#4
  | .frameWrite _ _ => 0x4#4
  | .regRead _ => 0x5#4
  | .regWrite _ _ => 0x6#4

/-- The word of a command, with 0 in every ignored field (R75, R76, R81). -/
def encode (i : Instr) : CommandWord :=
  match i with
  | .crcReset => packWord 0 0 i.opcode
  | .crcUpdate b => packWord 0 b i.opcode
  | .frameRead c => packWord 0 c i.opcode
  | .frameWrite c v => packWord v c i.opcode
  | .regRead r => packWord 0 r i.opcode
  | .regWrite r v => packWord v r i.opcode

end Sys2Proof
end

