-- ==== Sys2Proof/Machine/State.lean ====
section
/-! DEFINITION. The block's state (10_state.md), the outside agents' inputs held with it, and the reasons a step stops. -/

namespace Sys2Proof.Machine

/-- PHASE, the frame builder's control state (R32). -/
inductive Phase where
  /-- IDLE: no frame command in progress. -/
  | idle
  /-- W_PHASE: between BusBegin and the answer of BusEnd. -/
  | wPhase
  /-- TURN: waiting T_TURNAROUND, FRAME.READ only. -/
  | turn
  /-- R_PHASE: between BusRequest and the third BusRead answer, FRAME.READ only. -/
  | rPhase
  /-- DONE: the final updates. -/
  | done
  deriving DecidableEq, Repr

/-- Which frame command a transfer belongs to. -/
inductive FrameKind where
  | read
  | write
  deriving DecidableEq, Repr

/-- Which of FRAME.READ's three BusReads is waiting (R115). -/
inductive RxByte where
  | lo
  | hi
  | pec
  deriving DecidableEq, Repr

/-- The values a frame command's pseudocode holds while it waits for the bus (R113, R114, R118; log entry 13). -/
structure Transfer where
  /-- FRAME.READ or FRAME.WRITE. -/
  kind : FrameKind
  /-- The address snapshot (R113). -/
  a : BusAddr
  /-- The device command byte. -/
  c : Byte
  /-- The value's low byte: received by a read, sent by a write. -/
  lo : Byte
  /-- The value's high byte. -/
  hi : Byte
  /-- The PEC byte: received by a read, sent by a write. -/
  pec : Byte
  /-- The BusRead that waits in R_PHASE. -/
  awaits : RxByte
  deriving DecidableEq, Repr

/-- What the host does next (R5, R171). -/
inductive HostEvent where
  /-- It issues this command word as soon as BUSY = 0 (R70, R183). -/
  | word (w : CommandWord)
  /-- It resets the block, whatever BUSY is (R171, R181). -/
  | reset
  /-- It does nothing for one step. -/
  | pause
  deriving DecidableEq, Repr

/-- What happens on the bus interface: the primitives of R17 and R53 as the block issues them, and the answers. -/
inductive BusEvent where
  /-- BusBegin(a). -/
  | busBegin (a : BusAddr)
  /-- BusWrite(b). -/
  | busWrite (b : Byte)
  /-- BusEnd(release). -/
  | busEnd (release : Bool)
  /-- Wait(T). -/
  | wait (t : Nat)
  /-- BusRequest(a, n). -/
  | busRequest (a : BusAddr) (n : Nat)
  /-- BusRead(). -/
  | busRead
  /-- The bus agent's answer to the BusEnd or BusRead before it. -/
  | answer (b : Byte)
  deriving DecidableEq, Repr

/-- Why the block stops with a fault: never. R160: the block raises no exception, trap or fault of any kind, so nothing
raises one here and there is no constructor (log entry 18; safe, since no claim can rest on a fault). -/
inductive Fault where
  deriving DecidableEq, Repr

/-- Why the model has no step (R17's `refuse`; log entry 5). -/
inductive Refusal where
  /-- An instruction without a meaning; raised by exec's rejected arms only, of which none is left. Safe. -/
  | notModelled (mnemonic : String)
  /-- A word with OP 0x0 or 0x7 to 0xF (R77), raised by fetching it. Safe: the spec gives it no behaviour. -/
  | reservedOp
  /-- A word with RSV not 0000 (R72, R77), raised by fetching it. Safe: the spec gives it no behaviour. -/
  | rsvNonzero
  /-- REG.READ or REG.WRITE of index 0x06 to 0xFF (R78), raised by fetching the word and by the meaning. Safe: the spec
  gives it no behaviour. -/
  | reservedIndex
  /-- A command presented while BUSY = 1 (R183), raised by every meaning. Safe: the spec gives it no behaviour. -/
  | wordWhileBusy
  deriving DecidableEq, Repr

/-- The machine: the registers of R20, the hidden state of R31 and R32, the transfer in progress, and the two outside
agents' inputs and outputs (log entries 1, 2 and 6). -/
@[ext]
structure State where
  /-- CRC_ACC, the host-visible checksum accumulator (R21). -/
  crcAcc : Byte
  /-- CRC_POLY, read-only (R22). -/
  crcPoly : Byte
  /-- ADDR, the device bus address (R23). -/
  addr : BusAddr
  /-- ERR, the error bitmask (R24 to R26). Read and written through `readErr` and `writeErr`. -/
  err : Byte
  /-- LAST_CRC, the last computed checksum (R27). -/
  lastCrc : Byte
  /-- LAST_PEC, the last received PEC (R28). -/
  lastPec : Byte
  /-- RESP, the result of the last completed command (R29). -/
  resp : Value
  /-- BUSY, a frame command is in progress (R30). -/
  busy : Bool
  /-- FB_ACC, the frame builder's accumulator (R31). -/
  fbAcc : Byte
  /-- PHASE (R32). -/
  phase : Phase
  /-- The frame command's held values (log entry 13). -/
  xfer : Transfer
  /-- The host's coming events, oldest first (log entry 1). -/
  host : List HostEvent
  /-- The bus agent's scripted moves, oldest first: `some b` answers with b, `none` stays silent for the step; after
  them come the free draws (log entry 2). -/
  busIn : List (Option Byte)
  /-- How many free draws of `Config.busDraw` have been taken (log entry 2). -/
  busDraws : Nat
  /-- What has happened on the bus interface, oldest first (log entry 6). -/
  busLog : List BusEvent
  deriving DecidableEq, Repr

/-- The held values of a transfer before any frame command (log entry 7). -/
def Transfer.reset : Transfer :=
  { kind := .read, a := 0, c := 0, lo := 0, hi := 0, pec := 0, awaits := .lo }

/-- The machine right after reset (R34, R180), with no host event, no scripted bus move and nothing on the bus yet. FB_ACC
and the transfer's held values have no value in the spec (log entry 7). -/
def State.reset : State :=
  { crcAcc := 0x00, crcPoly := Config.pPoly, addr := Config.pAddrDefault, err := 0x00, lastCrc := 0x00,
    lastPec := 0x00, resp := 0x0000, busy := false, fbAcc := 0x00, phase := .idle, xfer := Transfer.reset,
    host := [], busIn := [], busDraws := 0, busLog := [] }

/-- How far the frame builder got in one of its own steps: it moved on, or the machine's step ends because it waits for the
bus agent or has come to TURN. -/
inductive Progress where
  | moved (s : State)
  | waits (s : State)
  deriving DecidableEq, Repr

/-- What a step finds to do: run a command, nothing but the block's own progress, or refuse a word. -/
inductive Fetched where
  | command (i : Instr) (s : State)
  | quiet (s : State)
  | refused (r : Refusal)
  deriving DecidableEq, Repr

end Sys2Proof.Machine
end

