-- ==== Sys2Proof/Machine/Operands.lean ====
section
/-! DEFINITION. Operand forms: the bytes of a frame (20_memory.md R56, R57) and the block register indices (10_state.md R33). -/

namespace Sys2Proof.Machine

/-- aw, the write-address byte of the PEC: the 7-bit address shifted left by one bit (R56). -/
def writeAddrByte (a : BusAddr) : Byte := a.setWidth 8 <<< 1

/-- ar, the read-address byte of the PEC: aw plus one (R56). -/
def readAddrByte (a : BusAddr) : Byte := writeAddrByte a + 1#8

/-- v[7:0], the value's low byte (R57, R74). -/
def lowByte (v : Value) : Byte := v.extractLsb' 0 8

/-- v[15:8], the value's high byte (R57, R74). -/
def highByte (v : Value) : Byte := v.extractLsb' 8 8

/-- hi:lo, the reassembled 16-bit value (R14, R57). -/
def joinBytes (hi lo : Byte) : Value := hi ++ lo

/-- The bytes FRAME.READ's PEC covers, in order (R114). -/
def readPecBytes (a : BusAddr) (c lo hi : Byte) : List Byte := [writeAddrByte a, c, readAddrByte a, lo, hi]

/-- The bytes FRAME.WRITE's PEC covers, in order (R118). -/
def writePecBytes (a : BusAddr) (c lo hi : Byte) : List Byte := [writeAddrByte a, c, lo, hi]

/-- zext_16 of a byte or a bus address (R14). -/
def zext16 {n : Nat} (x : BitVec n) : Value := x.setWidth 16

end Sys2Proof.Machine
end

