-- ==== Sys2Proof/Machine/Ops.lean ====
section
/-! DEFINITION. The named operations on the state: register accessors, the bus, the frame builder's phases, accepting a
command, and reset. There is no operation that takes an exception or returns from one: the block has neither
(60_exceptions.md R160, R164). -/

namespace Sys2Proof.Machine

/-- R[ERR]: bit 7 always reads 0 (R25; log entry 9). -/
def readErr (s : State) : Byte := s.err &&& errDefined

/-- R[ERR] <- e: a write to bit 7 is ignored (R25). -/
def writeErr (e : Byte) (s : State) : State := { s with err := e &&& errDefined }

/-- R[ERR] <- R[ERR] OR bits (R26). -/
def orErr (bits : Byte) (s : State) : State := writeErr (readErr s ||| bits) s

/-- R[RESP] <- v (R29). -/
def setResp (v : Value) (s : State) : State := { s with resp := v }

/-- reg_value(i): a block register, zero-extended to 16 bits; `none` for a reserved index (R33, R141). -/
def regValue (i : Byte) (s : State) : Option Value :=
  match i.toNat with
  | 0 => some (zext16 s.crcAcc)
  | 1 => some (zext16 s.crcPoly)
  | 2 => some (zext16 s.addr)
  | 3 => some (zext16 (readErr s))
  | 4 => some (zext16 s.lastCrc)
  | 5 => some (zext16 s.lastPec)
  | _ => none

/-- The register write of REG.WRITE: ADDR and ERR take v[6:0], the read-only registers keep their value; `none` for a
reserved index (R33, R142 to R145). -/
def regStore (i : Byte) (v : Value) (s : State) : Option State :=
  match i.toNat with
  | 0 => some s
  | 1 => some s
  | 2 => some { s with addr := v.extractLsb' 0 7 }
  | 3 => some (writeErr ((v.extractLsb' 0 7).setWidth 8) s)
  | 4 => some s
  | 5 => some s
  | _ => none

/-- Events on the bus interface, in order (R53, R62). -/
def emit (events : List BusEvent) (s : State) : State := { s with busLog := s.busLog ++ events }

/-- The bus agent's next move: the next scripted one, or a free draw when there is none left (R55; log entry 2). -/
def takeMove (s : State) : Option Byte × State :=
  match s.busIn with
  | m :: rest => (m, { s with busIn := rest })
  | [] => (Config.busDraw s.busDraws, { s with busDraws := s.busDraws + 1 })

/-- A command is accepted only while BUSY = 0; presented while BUSY = 1 it is refused (R30, R183). -/
def whenReady (s : State) (run : State → Host.Outcome State Fault Refusal) : Host.Outcome State Fault Refusal :=
  if s.busy then .refused .wordWhileBusy else run s

/-- The start of FRAME.READ up to the wait for BusEnd(false): BUSY, PHASE, the start-of-frame clear, FB_ACC <- 0, the
address snapshot and the write phase (R31, R110, R113, R114, R115). -/
def acceptRead (c : Byte) (s : State) : State :=
  emit [.busBegin s.addr, .busWrite c, .busEnd false]
    { writeErr (startClear (readErr s)) s with
      busy := true
      fbAcc := 0x00#8
      phase := .wPhase
      xfer := { s.xfer with kind := .read, a := s.addr, c := c, awaits := .lo } }

/-- The start of FRAME.WRITE up to the wait for BusEnd(true): as for a read, and the PEC it sends, which goes to LAST_CRC
before the bus is used (R110, R112, R113, R118, R119). -/
def acceptWrite (c : Byte) (v : Value) (s : State) : State :=
  let lo := lowByte v
  let hi := highByte v
  let pec := crc8 s.crcPoly (writePecBytes s.addr c lo hi)
  emit [.busBegin s.addr, .busWrite c, .busWrite lo, .busWrite hi, .busWrite pec, .busEnd true]
    { writeErr (startClear (readErr s)) s with
      busy := true
      phase := .wPhase
      fbAcc := pec
      lastCrc := pec
      xfer := { s.xfer with kind := .write, a := s.addr, c := c, lo := lo, hi := hi, pec := pec } }

/-- The answer of BusEnd: its status bits are recorded, and a read goes on to TURN whatever they are, a write to DONE (R111,
R114, R118, R121). -/
def endWritePhase (st : Byte) (s : State) : State :=
  { emit [.answer st] (orErr (statusBits st) s) with
    phase := match s.xfer.kind with
      | .read => .turn
      | .write => .done }

/-- The end of the turnaround wait: the read phase is requested and its first byte read (R114, R115, R125). -/
def startReadPhase (s : State) : State :=
  { emit [.wait Config.tTurnaround, .busRequest s.xfer.a Config.pReadLen, .busRead] s with phase := .rPhase }

/-- The answer of a BusRead: low byte, then high byte, then PEC; after the third the command is DONE (R57, R114, R115). -/
def receiveByte (b : Byte) (s : State) : State :=
  match s.xfer.awaits with
  | .lo => { emit [.answer b, .busRead] s with xfer := { s.xfer with lo := b, awaits := .hi } }
  | .hi => { emit [.answer b, .busRead] s with xfer := { s.xfer with hi := b, awaits := .pec } }
  | .pec => { emit [.answer b] s with xfer := { s.xfer with pec := b }, phase := .done }

/-- BUSY <- 0, PHASE <- IDLE (R30, R32). -/
def becomeIdle (s : State) : State := { s with busy := false, phase := .idle }

/-- FRAME.READ's end-of-command updates, in the order of R114: the PEC over the received frame, LAST_CRC, LAST_PEC, the
PEC comparison (R116), the broadcast rule (R120), and the value to RESP whatever ERR holds (R117). -/
def finishRead (s : State) : State :=
  let x := s.xfer
  let computed := crc8 s.crcPoly (readPecBytes x.a x.c x.lo x.hi)
  let s1 := { s with fbAcc := computed, lastCrc := computed, lastPec := x.pec }
  let s2 := orErr (pecBits computed x.pec) s1
  let s3 := writeErr (suppressBroadcast Config.pBcastSuppressMask x.a (readErr s2)) s2
  becomeIdle (setResp (joinBytes x.hi x.lo) s3)

/-- FRAME.WRITE's end-of-command updates: the broadcast rule and RESP <- 0 (R118, R120). -/
def finishWrite (s : State) : State :=
  let s1 := writeErr (suppressBroadcast Config.pBcastSuppressMask s.xfer.a (readErr s)) s
  becomeIdle (setResp 0x0000#16 s1)

/-- One step of the frame builder (R32): where it waits for the bus it takes the agent's next move, and stays where it is
if that move is silence (R123). TURN ends after a step of the machine of its own (R125): the answer that leads to TURN ends
the step it comes in, so that a reset can land there (R171). -/
def frameStep (s : State) : Progress :=
  match s.phase with
  | .idle => .waits s
  | .wPhase =>
    match takeMove s with
    | (some st, s1) =>
      match s.xfer.kind with
      | .read => .waits (endWritePhase st s1)
      | .write => .moved (endWritePhase st s1)
    | (none, s1) => .waits s1
  | .turn => .moved (startReadPhase s)
  | .rPhase =>
    match takeMove s with
    | (some b, s1) => .moved (receiveByte b s1)
    | (none, s1) => .waits s1
  | .done =>
    .moved (match s.xfer.kind with
      | .read => finishRead s
      | .write => finishWrite s)

/-- The frame builder's steps until it waits for the bus agent or has come to TURN, at most n of them (R18, R125). The other
phases do not end a step: R18 makes one transition of them, so no reset lands inside it (log entry 3). -/
def frameRun : Nat → State → State
  | 0, s => s
  | n + 1, s =>
    match frameStep s with
    | .moved s1 => frameRun n s1
    | .waits s1 => s1

/-- The most frame-builder steps in one step of the machine: TURN, three answers in R_PHASE, DONE (R32, R115). -/
def frameSteps : Nat := 5

/-- The frame command in progress goes on as far as the bus agent answers, or to TURN; with none in progress nothing happens
(R5, R18, R125). -/
def goOn (s : State) : State := if s.busy then frameRun frameSteps s else s

/-- Reset (R180, R181): every piece of the block's state takes its reset value and a frame command in progress is abandoned.
The outside agents' inputs, and what the bus has already seen, are not the block's and stay (log entry 8). -/
def resetBlock (s : State) : State :=
  { State.reset with host := s.host, busIn := s.busIn, busDraws := s.busDraws, busLog := s.busLog }

end Sys2Proof.Machine
end

