-- ==== Sys2Proof/Machine/CrcEngine.lean ====
section
/-! DEFINITION. The checksum engine's commands (40_crc_engine.md R92, R93). -/

namespace Sys2Proof.Machine

/-- CRC.RESET: CRC_ACC <- 0, RESP <- 0; CRC_POLY is unchanged (R92). -/
def execCrcReset (s : State) : Host.Outcome State Fault Refusal :=
  whenReady s fun s => .next (setResp 0x0000#16 { s with crcAcc := 0x00#8 })

/-- CRC.UPDATE: fold b into CRC_ACC; RESP shows the new accumulator (R93). -/
def execCrcUpdate (b : Byte) (s : State) : Host.Outcome State Fault Refusal :=
  whenReady s fun s =>
    let n := crc8Step s.crcPoly s.crcAcc b
    .next (setResp (zext16 n) { s with crcAcc := n })

end Sys2Proof.Machine
end

