-- ==== Sys2Proof/Machine/FrameBuilder.lean ====
section
/-! DEFINITION. The frame builder's commands (41_frame_builder.md R114, R118). Each is accepted, then goes on in the same
transition as far as the bus agent answers (R18), FRAME.READ to TURN at most (R125); a later step goes on from there, or from
where the agent stayed silent (R123; log entry 3). -/

namespace Sys2Proof.Machine

/-- FRAME.READ: a register read of command byte c with PEC validation (R114). -/
def execFrameRead (c : Byte) (s : State) : Host.Outcome State Fault Refusal :=
  whenReady s fun s => .next (goOn (acceptRead c s))

/-- FRAME.WRITE: a register write of v to command byte c with PEC insertion (R118). -/
def execFrameWrite (c : Byte) (v : Value) (s : State) : Host.Outcome State Fault Refusal :=
  whenReady s fun s => .next (goOn (acceptWrite c v s))

end Sys2Proof.Machine
end

