-- ==== Sys2Proof/Machine/RegAccess.lean ====
section
/-! DEFINITION. The register access commands (42_register_access.md R140, R142). -/

namespace Sys2Proof.Machine

/-- REG.READ: RESP <- register i, and nothing else; a reserved index is refused (R140, R141, R78). -/
def execRegRead (i : Byte) (s : State) : Host.Outcome State Fault Refusal :=
  whenReady s fun s =>
    match regValue i s with
    | some v => .next (setResp v s)
    | none => .refused .reservedIndex

/-- REG.WRITE: register i takes v where it is writable, and RESP <- 0; a reserved index is refused (R142 to R145, R78). -/
def execRegWrite (i : Byte) (v : Value) (s : State) : Host.Outcome State Fault Refusal :=
  whenReady s fun s =>
    match regStore i v s with
    | some s1 => .next (setResp 0x0000#16 s1)
    | none => .refused .reservedIndex

end Sys2Proof.Machine
end

