-- ==== Sys2Proof/Machine/Dispatch.lean ====
section
/-! DEFINITION. One arm per command, each the direct call of its meaning. -/

namespace Sys2Proof.Machine

def exec (i : Instr) (s : State) : Host.Outcome State Fault Refusal :=
  match i with
  | .crcReset => Sys2Proof.Machine.execCrcReset s
  | .crcUpdate b => Sys2Proof.Machine.execCrcUpdate b s
  | .frameRead c => Sys2Proof.Machine.execFrameRead c s
  | .frameWrite c v => Sys2Proof.Machine.execFrameWrite c v s
  | .regRead r => Sys2Proof.Machine.execRegRead r s
  | .regWrite r v => Sys2Proof.Machine.execRegWrite r v s

end Sys2Proof.Machine
end

