-- ==== Sys2Proof/Machine/Fetch.lean ====
section
/-! DEFINITION. Where a step's work comes from: the host's next event (30_encoding.md R79; 70_reset_and_hazards.md R181, R183). -/

namespace Sys2Proof.Machine

/-- The refusal of a word the decoder refuses (R77, R78). -/
def refusalOf (r : DecodeRefusal) : Refusal :=
  match r with
  | .rsvNonzero => .rsvNonzero
  | .reservedOp => .reservedOp
  | .reservedIndex => .reservedIndex

/-- The host's next event. A reset happens at once (R181). While BUSY = 1 the host issues no word: it keeps the word, and
the frame command in progress goes on (R183). While BUSY = 0 the word is handed over and decoded (R80). With no word the
block only goes on with what it is doing. -/
def fetch (s : State) : Fetched :=
  match s.host with
  | .reset :: rest => .quiet (resetBlock { s with host := rest })
  | .pause :: rest => .quiet (goOn { s with host := rest })
  | .word w :: rest =>
    if s.busy then .quiet (goOn s)
    else match decode w with
      | .command i => .command i { s with host := rest }
      | .refused r => .refused (refusalOf r)
  | [] => .quiet (goOn s)

/-- The state in which the next step is handed this word: BUSY = 0 with no frame command in progress, the word first among
the host's events (log entry 1). -/
def presentWord (w : CommandWord) (s : State) : State :=
  { becomeIdle s with host := .word w :: s.host }

end Sys2Proof.Machine
end

