-- ==== Sys2Proof/Machine/Step.lean ====
section
/-! DEFINITION. One step of the machine: it runs the command the host hands over, or lets the block go on. -/

namespace Sys2Proof.Machine

/-- One step: the command the host's next event hands over, run; or only the block's own progress; or the refusal of a
word that is no command. -/
def step (s : State) : Host.Outcome State Fault Refusal :=
  match fetch s with
  | .command i s1 => exec i s1
  | .quiet s1 => .next s1
  | .refused r => .refused r

/-- s with an opcode-table word placed where the next step is handed its command (log entry 1). -/
def State.withFetchWord (s : State) (nbits w : Nat) : State := presentWord (tableWord nbits w) s

end Sys2Proof.Machine
end

