-- ==== Sys2Proof/Assembler.lean ====
section
/-! DEFINITION. The assembler: source lines, pseudo-instructions and their words (30_encoding.md R81, R82). -/

namespace Sys2Proof

/-- A line of the source, its numbers not yet checked against their fields: the six commands of R81 and the seven
pseudo-instructions of R82. -/
inductive AsmLine where
  | crcReset
  | crcUpdate (byte : Nat)
  | frameRead (cmd : Nat)
  | frameWrite (cmd value : Nat)
  | regRead (reg : Nat)
  | regWrite (reg value : Nat)
  | crcFeed (bytes : List Nat)
  | crcFrame (bytes : List Nat)
  | crcRead
  | errClear
  | errRead
  | addrSet (a : Nat)
  | addrRead
  deriving DecidableEq, Repr

/-- The block register indices by their names (R81). -/
def regIndexCrcAcc : Nat := 0x00
def regIndexCrcPoly : Nat := 0x01
def regIndexAddr : Nat := 0x02
def regIndexErr : Nat := 0x03
def regIndexLastCrc : Nat := 0x04
def regIndexLastPec : Nat := 0x05

/-- The expansion of a line into lines of the six commands (R82). -/
def AsmLine.expand : AsmLine → List AsmLine
  | .crcReset => [.crcReset]
  | .crcUpdate b => [.crcUpdate b]
  | .frameRead c => [.frameRead c]
  | .frameWrite c v => [.frameWrite c v]
  | .regRead r => [.regRead r]
  | .regWrite r v => [.regWrite r v]
  | .crcFeed bs => bs.map .crcUpdate
  | .crcFrame bs => .crcReset :: bs.map .crcUpdate
  | .crcRead => [.regRead regIndexCrcAcc]
  | .errClear => [.regWrite regIndexErr 0x0000]
  | .errRead => [.regRead regIndexErr]
  | .addrSet a => [.regWrite regIndexAddr a]
  | .addrRead => [.regRead regIndexAddr]

/-- A number that fits a w-bit field; any other is rejected (R81). -/
def fitField (w n : Nat) : Option (BitVec w) := if n < 2 ^ w then some (BitVec.ofNat w n) else none

/-- The command of an expanded line; `none` where an operand does not fit its field, or the line is no command. -/
def AsmLine.command? : AsmLine → Option Instr
  | .crcReset => some .crcReset
  | .crcUpdate b => (fitField 8 b).map .crcUpdate
  | .frameRead c => (fitField 8 c).map .frameRead
  | .frameWrite c v =>
    match fitField 8 c, fitField 16 v with
    | some c8, some v16 => some (.frameWrite c8 v16)
    | _, _ => none
  | .regRead r => (fitField 8 r).map .regRead
  | .regWrite r v =>
    match fitField 8 r, fitField 16 v with
    | some r8, some v16 => some (.regWrite r8 v16)
    | _, _ => none
  | .crcFeed _ => none
  | .crcFrame _ => none
  | .crcRead => none
  | .errClear => none
  | .errRead => none
  | .addrSet _ => none
  | .addrRead => none

/-- The words of a source line, one for each line of its expansion, 0 in every ignored field; `none` if an operand does not
fit its field (R81). -/
def assemble (l : AsmLine) : Option (List CommandWord) := l.expand.mapM fun x => x.command?.map encode

/-! The text of a line (R81): a lower-case mnemonic, then operands separated by commas, each a number in decimal or in
hex with 0x before it, or a register's name. Blanks are spaces and tabs (log entry 14). -/

/-- The characters that separate the parts of a line: a space, a tab. -/
def blanks : List Char := [' ', '\t']

/-- The text without the blanks around it. -/
def trimBlanks (t : List Char) : List Char :=
  let fromStart := t.dropWhile blanks.contains
  (fromStart.reverse.dropWhile blanks.contains).reverse

/-- The digits of both bases, each at its own value (R81); a hex digit may also be upper case. -/
def digitChars : List Char := "0123456789abcdef".toList

/-- The upper-case spelling of `digitChars`. -/
def digitCharsUpper : List Char := "0123456789ABCDEF".toList

/-- The number that digits of a base from 2 to 16 spell. -/
def numberOfDigits (base : Nat) (digits : List Char) : Option Nat :=
  digits.foldlM (init := 0) fun n d =>
    let lower := (digitChars.take base).idxOf? d
    (lower.or ((digitCharsUpper.take base).idxOf? d)).map fun value => base * n + value

/-- A number of the source (R81): 0xNN in hex, or decimal; at least one digit. -/
def parseNumber (t : List Char) : Option Nat :=
  let hex := "0x".toList.isPrefixOf t
  let digits := if hex then t.drop 2 else t
  if digits = [] then none else numberOfDigits (if hex then 16 else 10) digits

/-- A register operand: a name of R81, or a number. -/
def parseRegister (t : List Char) : Option Nat :=
  if t = "CRC_ACC".toList then some regIndexCrcAcc
  else if t = "CRC_POLY".toList then some regIndexCrcPoly
  else if t = "ADDR".toList then some regIndexAddr
  else if t = "ERR".toList then some regIndexErr
  else if t = "LAST_CRC".toList then some regIndexLastCrc
  else if t = "LAST_PEC".toList then some regIndexLastPec
  else parseNumber t

/-- The operands of a line, which commas separate: none where nothing but blanks stands there. -/
def parseOperands (t : List Char) : List (List Char) :=
  if trimBlanks t = [] then [] else (t.splitOn ',').map trimBlanks

/-- The line of a mnemonic without operands. -/
def parseBare (ops : List (List Char)) (l : AsmLine) : Option AsmLine := if ops = [] then some l else none

/-- The line of a mnemonic with one number. -/
def parseOne (ops : List (List Char)) (mk : Nat → AsmLine) : Option AsmLine :=
  match ops with
  | [t] => (parseNumber t).map mk
  | _ => none

/-- The line of a mnemonic whose two operands are read by `first?` and as a number. -/
def parseTwo (ops : List (List Char)) (first? : List Char → Option Nat) (mk : Nat → Nat → AsmLine) : Option AsmLine :=
  match ops with
  | [t, u] =>
    match first? t, parseNumber u with
    | some n, some m => some (mk n m)
    | _, _ => none
  | _ => none

/-- The line of a mnemonic with one or more numbers. -/
def parseMany (ops : List (List Char)) (mk : List Nat → AsmLine) : Option AsmLine :=
  match ops with
  | [] => none
  | ts => (ts.mapM parseNumber).map mk

/-- One line of text (R81, R82); `none` where it is no line of the syntax. -/
def parseLine (text : List Char) : Option AsmLine :=
  let parts := (trimBlanks text).span fun c => !blanks.contains c
  let ops := parseOperands parts.2
  if parts.1 = "crc.reset".toList then parseBare ops .crcReset
  else if parts.1 = "crc.update".toList then parseOne ops .crcUpdate
  else if parts.1 = "frame.read".toList then parseOne ops .frameRead
  else if parts.1 = "frame.write".toList then parseTwo ops parseNumber .frameWrite
  else if parts.1 = "reg.read".toList then
    match ops with
    | [t] => (parseRegister t).map .regRead
    | _ => none
  else if parts.1 = "reg.write".toList then parseTwo ops parseRegister .regWrite
  else if parts.1 = "crc.feed".toList then parseMany ops .crcFeed
  else if parts.1 = "crc.frame".toList then parseMany ops .crcFrame
  else if parts.1 = "crc.read".toList then parseBare ops .crcRead
  else if parts.1 = "err.clear".toList then parseBare ops .errClear
  else if parts.1 = "err.read".toList then parseBare ops .errRead
  else if parts.1 = "addr.set".toList then parseOne ops .addrSet
  else if parts.1 = "addr.read".toList then parseBare ops .addrRead
  else none

/-- The words of one line of text. -/
def assembleText (text : List Char) : Option (List CommandWord) :=
  match parseLine text with
  | some l => assemble l
  | none => none

end Sys2Proof
end

