-- ==== Sys2Proof/Safety.lean ====
section
/-! DEFINITION. The terms the claims use: runs, the machine's invariant, the bus answering at once, and the end of a frame
command as one record. -/

namespace Sys2Proof.Machine

/-- k steps, stopping at the first refusal. -/
def runSteps : Nat → State → Host.Outcome State Fault Refusal
  | 0, s => .next s
  | k + 1, s =>
    match step s with
    | .next t => runSteps k t
    | o => o

/-- Commands run one after another, stopping at the first refusal. -/
def execAll : List Instr → State → Host.Outcome State Fault Refusal
  | [], s => .next s
  | i :: rest, s =>
    match exec i s with
    | .next t => execAll rest t
    | o => o

/-- A command, and then k steps of the machine. -/
def runCommand (i : Instr) (k : Nat) (s : State) : Host.Outcome State Fault Refusal :=
  match exec i s with
  | .next t => runSteps k t
  | o => o

/-- The host's events after n steps in which it issues no word and does not reset: the pauses it took are gone. -/
def afterQuiet : Nat → List HostEvent → List HostEvent
  | 0, events => events
  | _ + 1, [] => []
  | n + 1, .pause :: rest => afterQuiet n rest
  | _ + 1, .word w :: rest => .word w :: rest
  | _ + 1, .reset :: rest => .reset :: rest

/-- What holds in every state a run reaches. -/
structure BlockInv (s : State) : Prop where
  /-- BUSY = 1 exactly when PHASE is not IDLE (R32). -/
  busy_iff_phase : s.busy = true ↔ s.phase ≠ .idle
  /-- CRC_POLY is P_POLY (R22). -/
  poly_fixed : s.crcPoly = Config.pPoly
  /-- ERR bit 7 is 0 (R25). -/
  err_reserved_zero : s.err[7] = false
  /-- The address snapshot of a frame command in progress is ADDR (R113). -/
  snapshot_is_addr : s.busy = true → s.xfer.a = s.addr
  /-- TURN and R_PHASE belong to FRAME.READ only (R32). -/
  read_phases : s.phase = .turn ∨ s.phase = .rPhase → s.xfer.kind = .read

/-- The bus agent's next n moves are answers: their bytes, and the state with the moves taken. -/
def busAnswers : Nat → State → Option (List Byte × State)
  | 0, s => some ([], s)
  | n + 1, s =>
    match takeMove s with
    | (some b, s1) =>
      match busAnswers n s1 with
      | some (bs, s2) => some (b :: bs, s2)
      | none => none
    | (none, _) => none

/-- The bus agent's next moves are these, scripted or free: the state with them taken. -/
def takeMoves : List (Option Byte) → State → Option State
  | [], s => some s
  | m :: rest, s => if (takeMove s).1 = m then takeMoves rest (takeMove s).2 else none

/-- The primitives and answers of a whole FRAME.READ, in the order of R115. -/
def readEvents (a : BusAddr) (c st lo hi pec : Byte) : List BusEvent :=
  [.busBegin a, .busWrite c, .busEnd false, .answer st, .wait Config.tTurnaround, .busRequest a 3, .busRead, .answer lo,
    .busRead, .answer hi, .busRead, .answer pec]

/-- The primitives and answer of a whole FRAME.WRITE, in the order of R119. -/
def writeEvents (a : BusAddr) (c lo hi pec st : Byte) : List BusEvent :=
  [.busBegin a, .busWrite c, .busWrite lo, .busWrite hi, .busWrite pec, .busEnd true, .answer st]

/-- The state in TURN of a FRAME.READ of c that was accepted in s and got the status st; `moved` is s with the bus agent's
move taken. -/
def readTurn (c st : Byte) (s moved : State) : State :=
  { moved with
    err := (s.err &&& errHostOwned) ||| statusBits st
    busy := true
    fbAcc := 0x00#8
    phase := .turn
    xfer := { s.xfer with kind := .read, a := s.addr, c := c, awaits := .lo }
    busLog := s.busLog ++ [.busBegin s.addr, .busWrite c, .busEnd false, .answer st] }

/-- The state after a completed FRAME.READ of c that was accepted in s and got the answers st, lo, hi, pec; `moved` is s
with the bus agent's moves taken. ERR is R127's function beside the host's two bits. -/
def readDone (c st lo hi pec : Byte) (s moved : State) : State :=
  let computed := crc8 s.crcPoly [writeAddrByte s.addr, c, readAddrByte s.addr, lo, hi]
  { moved with
    err := (s.err &&& errHostOwned) ||| frameErr Config.pBcastSuppressMask st (computed ≠ pec) s.addr
    lastCrc := computed
    lastPec := pec
    resp := hi ++ lo
    busy := false
    fbAcc := computed
    phase := .idle
    xfer := { kind := .read, a := s.addr, c := c, lo := lo, hi := hi, pec := pec, awaits := .pec }
    busLog := s.busLog ++ readEvents s.addr c st lo hi pec }

/-- The state after a completed FRAME.WRITE of v to c that was accepted in s and got the status st; `moved` is s with the
bus agent's move taken. -/
def writeDone (c : Byte) (v : Value) (st : Byte) (s moved : State) : State :=
  let lo := v.extractLsb' 0 8
  let hi := v.extractLsb' 8 8
  let pec := crc8 s.crcPoly [writeAddrByte s.addr, c, lo, hi]
  { moved with
    err := (s.err &&& errHostOwned) ||| frameErr Config.pBcastSuppressMask st false s.addr
    lastCrc := pec
    resp := 0x0000#16
    busy := false
    fbAcc := pec
    phase := .idle
    xfer := { s.xfer with kind := .write, a := s.addr, c := c, lo := lo, hi := hi, pec := pec }
    busLog := s.busLog ++ writeEvents s.addr c lo hi pec st }

/-- The data byte of a CRC.UPDATE; nothing for the other commands. -/
def updateByte? : Instr → Option Byte
  | .crcUpdate b => some b
  | .crcReset => none
  | .frameRead _ => none
  | .frameWrite _ _ => none
  | .regRead _ => none
  | .regWrite _ _ => none

/-- Only the words among the host's events. -/
def hostWords (events : List HostEvent) : List CommandWord :=
  events.filterMap fun e =>
    match e with
    | .word w => some w
    | .reset => none
    | .pause => none

/-- The bits of a command's word that are not ignored (R75, R76). -/
def usedBits : Instr → CommandWord
  | .crcReset => 0x000000FF#32
  | .crcUpdate _ => 0x0000FFFF#32
  | .frameRead _ => 0x0000FFFF#32
  | .frameWrite _ _ => 0xFFFFFFFF#32
  | .regRead _ => 0x0000FFFF#32
  | .regWrite _ _ => 0xFFFFFFFF#32

/-- The command is FRAME.READ or FRAME.WRITE. -/
def isFrame : Instr → Bool
  | .crcReset => false
  | .crcUpdate _ => false
  | .frameRead _ => true
  | .frameWrite _ _ => true
  | .regRead _ => false
  | .regWrite _ _ => false

/-- The command is CRC.RESET or CRC.UPDATE. -/
def isCrc : Instr → Bool
  | .crcReset => true
  | .crcUpdate _ => true
  | .frameRead _ => false
  | .frameWrite _ _ => false
  | .regRead _ => false
  | .regWrite _ _ => false

/-- The host's next event is a reset. -/
abbrev ResetNext (s : State) : Prop := s.host.head? = some .reset

/-- The host's next event hands over this command, and the block accepts it. -/
def CommandNext (i : Instr) (s : State) : Prop :=
  s.busy = false ∧ ∃ w rest, s.host = .word w :: rest ∧ decode w = .command i

/-- The block is waiting for the bus agent inside a frame command. -/
abbrev Stalled (s : State) : Prop := s.busy = true ∧ (s.phase = .wPhase ∨ s.phase = .rPhase)

/-- The event is a primitive the block issues, and not an answer to one. -/
def isPrimitive : BusEvent → Bool
  | .answer _ => false
  | .busBegin _ => true
  | .busWrite _ => true
  | .busEnd _ => true
  | .wait _ => true
  | .busRequest _ _ => true
  | .busRead => true

end Sys2Proof.Machine
end

