-- ==== Sys2Proof/Certificates/Slice0/Obligations.lean ====
section
/-! DEFINITION. The statements for the provers, each a def Obligations.<Name>. A docstring names the spec's rule; where a
clause is the model's own choice it names the log entry. -/

open Sys2Proof Sys2Proof.Machine

/-! Reset, the invariant, and what a step is. -/

/-- R34: the values after reset, of the state after reset and of the state any reset event leads to, BUSY or not. -/
def Obligations.ResetValues : Prop :=
  let atReset := fun t : State =>
    t.crcAcc = 0x00#8 ∧ t.crcPoly = 0x07#8 ∧ t.addr = 0x5A#7 ∧ t.err = 0x00#8 ∧ t.lastCrc = 0x00#8 ∧ t.lastPec = 0x00#8 ∧
      t.resp = 0x0000#16 ∧ t.busy = false ∧ t.phase = .idle
  atReset State.reset ∧ ∀ s rest, s.host = .reset :: rest → ∃ t, step s = .next t ∧ atReset t

/-- A reset abandons a frame command (R181): nothing is put on the bus, none of its end-of-command values appears, and
the host's and the bus agent's inputs stay (the model's choice, log entry 8). -/
def Obligations.ResetAbandonsFrameCommand : Prop :=
  ∀ s rest, s.busy = true → s.host = .reset :: rest →
    ∃ t, step s = .next t ∧ t.busy = false ∧ t.busLog = s.busLog ∧ t.host = rest ∧ t.busIn = s.busIn ∧
      t.busDraws = s.busDraws ∧ t.resp = 0x0000#16 ∧ t.lastCrc = 0x00#8 ∧ t.lastPec = 0x00#8 ∧ t.err = 0x00#8

/-- The invariant holds at reset. -/
def Obligations.InvAtReset : Prop := BlockInv State.reset

/-- Every step from a state with the invariant keeps it: BUSY = 1 exactly when PHASE is not IDLE (R32), CRC_POLY is 0x07
(R22), ERR bit 7 is 0 (R25), the address snapshot is ADDR (R113), TURN and R_PHASE belong to FRAME.READ (R32). -/
def Obligations.StepKeepsInv : Prop := ∀ s t, BlockInv s → step s = .next t → BlockInv t

/-- A step with BUSY = 0 and a word of the host that decodes to i is exec of i, with the word taken from the host. -/
def Obligations.StepRunsDecodedCommand : Prop :=
  ∀ s w rest i, s.busy = false → s.host = .word w :: rest → decode w = .command i →
    step s = exec i { s with host := rest }

/-- The other steps: with no command to take, the block goes on with what it is doing, which is nothing when BUSY = 0; a word
that is no command has no step (R77, R78); a reset resets the block. The host's events are the model's form (log entry 1), and
that a word waits while BUSY = 1 is log entry 5. -/
def Obligations.StepWithoutCommand : Prop :=
  (∀ s, s.host = [] → step s = .next (goOn s)) ∧
  (∀ s rest, s.host = .pause :: rest → step s = .next (goOn { s with host := rest })) ∧
  (∀ s w rest, s.busy = true → s.host = .word w :: rest → step s = .next (goOn s)) ∧
  (∀ s w rest r, s.busy = false → s.host = .word w :: rest → decode w = .refused r → step s = .refused (refusalOf r)) ∧
  (∀ s rest, s.host = .reset :: rest → step s = .next (resetBlock { s with host := rest })) ∧
  (∀ s, s.busy = false → goOn s = s)

/-- Every command presented while BUSY = 1 is refused (R183), and no step takes a word while BUSY = 1: that the host keeps its
word then, and is not refused, is log entry 5. -/
def Obligations.NoCommandAcceptedWhileBusy : Prop :=
  (∀ i s, s.busy = true → exec i s = .refused .wordWhileBusy) ∧
  (∀ s w rest, s.busy = true → s.host = .word w :: rest → ∃ t, step s = .next t ∧ t.host = s.host)

/-- With no frame command in progress and none among the host's words, no run puts anything on the bus: no background
activity (R5, R162), no bus primitive after reset until a frame command (R180), no bus activity of the other four commands. -/
def Obligations.NoBusActivityWithoutFrameCommand : Prop :=
  ∀ k s t, s.busy = false → (∀ w ∈ hostWords s.host, ∀ i, decode w = .command i → isFrame i = false) →
    runSteps k s = .next t → t.busLog = s.busLog ∧ t.busIn = s.busIn ∧ t.busDraws = s.busDraws ∧ t.busy = false

/-! Encoding. -/

/-- Decoding the word of any well-formed command gives the command back, every operand at every value. -/
def Obligations.DecodeEncodeRoundTrip : Prop := ∀ i : Instr, i.wellFormed = true → decode (encode i) = .command i

/-- A decoded command is well formed, and its own word is the decoded word with the ignored bits cleared (R75, R76). -/
def Obligations.EncodeOfDecodedWord : Prop :=
  ∀ w i, decode w = .command i → i.wellFormed = true ∧ encode i = w &&& usedBits i

/-- R76: words that differ only in ignored fields decode to the same command and behave identically. -/
def Obligations.IgnoredFieldsHaveNoEffect : Prop :=
  let same := fun w w' : CommandWord =>
    decode w = decode w' ∧
      ∀ (s : State) rest, s.busy = false →
        step { s with host := .word w :: rest } = step { s with host := .word w' :: rest }
  ∀ (v v' : Value) (b b' : Byte),
    same (v ++ b ++ 0x01#8) (v' ++ b' ++ 0x01#8) ∧ same (v ++ b ++ 0x02#8) (v' ++ b ++ 0x02#8) ∧
      same (v ++ b ++ 0x03#8) (v' ++ b ++ 0x03#8) ∧ same (v ++ b ++ 0x05#8) (v' ++ b ++ 0x05#8)

/-- R77, R78: the reserved words have no step, each refused under its name; no other word is refused. -/
def Obligations.ReservedWordsRefused : Prop :=
  ∀ (s : State) (w : CommandWord) rest, s.busy = false → s.host = .word w :: rest →
    let op := (w.extractLsb' 0 4).toNat
    let rsv := w.extractLsb' 4 4
    let b := (w.extractLsb' 8 8).toNat
    (rsv ≠ 0#4 → step s = .refused .rsvNonzero) ∧
      (rsv = 0#4 → op = 0 ∨ 7 ≤ op → step s = .refused .reservedOp) ∧
      (rsv = 0#4 → op = 5 ∨ op = 6 → 5 < b → step s = .refused .reservedIndex) ∧
      (rsv = 0#4 → 1 ≤ op ∧ op ≤ 4 → ∃ t, step s = .next t) ∧
      (rsv = 0#4 → op = 5 ∨ op = 6 → b ≤ 5 → ∃ t, step s = .next t)

/-- The worked encodings of R83, read both ways, and its three refused words. -/
def Obligations.WorkedEncodings : Prop :=
  (decode 0x00000001#32 = .command .crcReset ∧ encode .crcReset = 0x00000001#32) ∧
  (decode 0x0000B402#32 = .command (.crcUpdate 0xB4) ∧ encode (.crcUpdate 0xB4) = 0x0000B402#32) ∧
  (decode 0x00000703#32 = .command (.frameRead 0x07) ∧ encode (.frameRead 0x07) = 0x00000703#32) ∧
  (decode 0x7FFF2404#32 = .command (.frameWrite 0x24 0x7FFF) ∧ encode (.frameWrite 0x24 0x7FFF) = 0x7FFF2404#32) ∧
  (decode 0x005A2E04#32 = .command (.frameWrite 0x2E 0x005A) ∧ encode (.frameWrite 0x2E 0x005A) = 0x005A2E04#32) ∧
  (decode 0x00000305#32 = .command (.regRead 0x03) ∧ encode (.regRead 0x03) = 0x00000305#32) ∧
  (decode 0x00000206#32 = .command (.regWrite 0x02 0x0000) ∧ encode (.regWrite 0x02 0x0000) = 0x00000206#32) ∧
  (decode 0x00400306#32 = .command (.regWrite 0x03 0x0040) ∧ encode (.regWrite 0x03 0x0040) = 0x00400306#32) ∧
  decode 0x00000010#32 = .refused .rsvNonzero ∧ decode 0x00000007#32 = .refused .reservedOp ∧
  decode 0x00000605#32 = .refused .reservedIndex

/-- The pseudo-instructions of R82 assemble to the words of their expansions. -/
def Obligations.PseudoInstructionExpansions : Prop :=
  (∀ bs : List Byte, assemble (.crcFeed (bs.map BitVec.toNat)) = some (bs.map fun b => encode (.crcUpdate b))) ∧
  (∀ bs : List Byte, assemble (.crcFrame (bs.map BitVec.toNat)) =
    some (encode .crcReset :: bs.map fun b => encode (.crcUpdate b))) ∧
  (∀ a : Value, assemble (.addrSet a.toNat) = some [encode (.regWrite 0x02 a)]) ∧
  assemble .crcRead = some [0x00000005#32] ∧ assemble .errClear = some [0x00000306#32] ∧
  assemble .errRead = some [0x00000305#32] ∧ assemble .addrRead = some [0x00000205#32]

/-- The assembler accepts an operand exactly when it fits its field (R81): a byte up to 0xFF, a value up to 0xFFFF. That
reg.read and reg.write accept the reserved indices 0x06 to 0xFF too, to words that decoding refuses, is log entry 14. -/
def Obligations.AssemblerRejectsOversizedOperands : Prop :=
  ∀ n m : Nat,
    ((assemble (.crcUpdate n)).isSome = true ↔ n ≤ 0xFF) ∧ ((assemble (.frameRead n)).isSome = true ↔ n ≤ 0xFF) ∧
      ((assemble (.frameWrite n m)).isSome = true ↔ n ≤ 0xFF ∧ m ≤ 0xFFFF) ∧
      ((assemble (.regRead n)).isSome = true ↔ n ≤ 0xFF) ∧
      ((assemble (.regWrite n m)).isSome = true ↔ n ≤ 0xFF ∧ m ≤ 0xFFFF)

/-! The checksum engine. -/

/-- R90: the step is eight rounds of shift and conditional XOR on the accumulator XOR the byte, and CRC.UPDATE applies it
with p = CRC_POLY, which is 0x07. -/
def Obligations.CrcStepIsEightRounds : Prop :=
  let round := fun p a : Byte => if a[7] = true then (a <<< 1) ^^^ p else a <<< 1
  (∀ p acc b : Byte, crc8Step p acc b = (round p)^[8] (acc ^^^ b)) ∧
  (∀ (b : Byte) (s : State), s.busy = false →
    ∃ t, exec (.crcUpdate b) s = .next t ∧ t.crcAcc = (round s.crcPoly)^[8] (s.crcAcc ^^^ b)) ∧
  (∀ s, BlockInv s → s.crcPoly = 0x07#8)

/-- R91: the checksum is the left fold of the step from 0. -/
def Obligations.Crc8IsLeftFold : Prop :=
  ∀ p : Byte, crc8 p [] = 0x00#8 ∧ ∀ (s : List Byte) (b : Byte), crc8 p (s ++ [b]) = crc8Step p (crc8 p s) b

/-- The table form (40_crc_engine.md section 3, R96's inference): the step depends on acc XOR b only, through a table that
is a bijection, so distinct bytes give distinct results. -/
def Obligations.CrcTableForm : Prop :=
  let T := crc8Step 0x07#8 0x00#8
  (∀ acc b, crc8Step 0x07#8 acc b = T (acc ^^^ b)) ∧ Function.Bijective T ∧
    ∀ acc b b', b ≠ b' → crc8Step 0x07#8 acc b ≠ crc8Step 0x07#8 acc b'

/-- Linearity (R97's inference), for every polynomial, and the eight table entries of 0x07. -/
def Obligations.CrcStepIsLinear : Prop :=
  (∀ p x y : Byte, crc8Step p 0x00#8 (x ^^^ y) = crc8Step p 0x00#8 x ^^^ crc8Step p 0x00#8 y) ∧
  let T := crc8Step 0x07#8 0x00#8
  T 0x01#8 = 0x07#8 ∧ T 0x02#8 = 0x0E#8 ∧ T 0x04#8 = 0x1C#8 ∧ T 0x08#8 = 0x38#8 ∧ T 0x10#8 = 0x70#8 ∧
    T 0x20#8 = 0xE0#8 ∧ T 0x40#8 = 0xC7#8 ∧ T 0x80#8 = 0x89#8

/-- The self-check (R98's inference): a sequence followed by its own checksum has checksum 0, and feeding q after c gives 0
exactly when q = c. -/
def Obligations.ChecksumSelfCheck : Prop :=
  (∀ s : List Byte, crc8 0x07#8 (s ++ [crc8 0x07#8 s]) = 0x00#8) ∧
  ∀ c q : Byte, crc8Step 0x07#8 c q = 0x00#8 ↔ q = c

/-- The published check value (R99) and the source's own vector (95_test_vectors.md S2). -/
def Obligations.ChecksumCheckValues : Prop :=
  crc8 0x07#8 [0x31, 0x32, 0x33, 0x34, 0x35, 0x36, 0x37, 0x38, 0x39] = 0xF4#8 ∧
  crc8 0x07#8 [0xB4, 0x07, 0xB5, 0x00, 0x00] = 0x06#8

/-- R92: CRC.RESET clears CRC_ACC and RESP and leaves everything else, whatever stands in the ignored fields of its word. -/
def Obligations.CrcResetCompletes : Prop :=
  (∀ s, s.busy = false → exec .crcReset s = .next { s with crcAcc := 0x00#8, resp := 0x0000#16 }) ∧
  (∀ (v : Value) (b : Byte), decode (v ++ b ++ 0x01#8) = .command .crcReset) ∧
  encode .crcReset = 0x00000001#32

/-- R93: CRC.UPDATE folds its byte into CRC_ACC and shows the new accumulator in RESP, and leaves everything else; its word,
its corner cases and its example. -/
def Obligations.CrcUpdateCompletes : Prop :=
  (∀ b s, s.busy = false →
    exec (.crcUpdate b) s =
      .next { s with crcAcc := crc8Step s.crcPoly s.crcAcc b, resp := (crc8Step s.crcPoly s.crcAcc b).setWidth 16 }) ∧
  (∀ (v : Value) (b : Byte), decode (v ++ b ++ 0x02#8) = .command (.crcUpdate b)) ∧
  (∀ p acc b acc' b' : Byte, acc ^^^ b = acc' ^^^ b' → crc8Step p acc b = crc8Step p acc' b') ∧
  (∀ p acc : Byte, crc8Step p acc acc = 0x00#8) ∧ crc8Step 0x07#8 0x00#8 0x80#8 = 0x89#8 ∧
  crc8Step 0x07#8 0x00#8 0xFF#8 = 0xF3#8 ∧ crc8Step 0x07#8 0x00#8 0xB4#8 = 0x05#8

/-- R94: the engine has no hidden input. From two states that agree on CRC_ACC and CRC_POLY alone, the same CRC commands
complete, with the same CRC_ACC, and with no ERR bit changed. -/
def Obligations.CrcEngineHasNoHiddenInput : Prop :=
  ∀ (l : List Instr) (s1 s2 : State), (∀ i ∈ l, isCrc i = true) → s1.busy = false → s2.busy = false →
    s1.crcAcc = s2.crcAcc → s1.crcPoly = s2.crcPoly →
    ∃ t1 t2, execAll l s1 = .next t1 ∧ execAll l s2 = .next t2 ∧ t1.crcAcc = t2.crcAcc ∧ (l ≠ [] → t1.resp = t2.resp) ∧
      t1.err = s1.err ∧ t2.err = s2.err

/-- After CRC.RESET and any commands without another CRC.RESET, run by the machine's own steps with any bus answers and any
silences, CRC_ACC is the checksum of the updates' bytes; the frame and register commands between them change nothing (R95's
inference, R21). Every such run goes on, no step is refused: that the host's words wait while BUSY = 1 is log entry 5. -/
def Obligations.ChecksumSurvivesInterleavedCommands : Prop :=
  ∀ (k : Nat) (cmds : List Instr) (s : State), s.crcPoly = 0x07#8 →
    (∀ i ∈ cmds, i.wellFormed = true ∧ i ≠ .crcReset) →
    s.host = (Instr.crcReset :: cmds).map (fun i => HostEvent.word (encode i)) →
    ∃ t, runSteps k s = .next t ∧ (t.host = [] → t.crcAcc = crc8 0x07#8 (cmds.filterMap updateByte?))

/-! Operands of frames. -/

/-- R56: the address bytes of the PEC. aw is the address shifted left by one, bit 0 clear; ar is aw plus one and aw OR 1. -/
def Obligations.PecAddressBytes : Prop :=
  (∀ a : BusAddr, (writeAddrByte a).toNat = 2 * a.toNat ∧ (writeAddrByte a)[0] = false ∧
    readAddrByte a = writeAddrByte a + 1#8 ∧ readAddrByte a = writeAddrByte a ||| 0x01#8) ∧
  writeAddrByte 0x5A#7 = 0xB4#8 ∧ readAddrByte 0x5A#7 = 0xB5#8

/-- The status mapping (41_frame_builder.md section 1): every status has its one ERR bit, none for success. -/
def Obligations.StatusMapping : Prop :=
  statusBits 0#8 = 0x00#8 ∧ statusBits 1#8 = 0x01#8 ∧ statusBits 2#8 = 0x02#8 ∧ statusBits 3#8 = 0x04#8 ∧
  ∀ st : Byte, 4 ≤ st.toNat → statusBits st = 0x08#8

/-! FRAME.READ. -/

/-- FRAME.READ accepted while the bus agent's next four moves are answers: the transition that accepts it takes it to TURN,
which ends with a step of its own (R125), and if the host does not reset there that step completes it (R18), with the state of
R114's pseudocode and everything else unchanged; ERR is R127's function of the status, the PEC comparison and ADDR, beside the
host's bits. That the answers stand in the model's inputs is the model's choice (log entries 2 and 3). -/
def Obligations.FrameReadCompletes : Prop :=
  ∀ c s st lo hi pec moved, s.busy = false → busAnswers 4 s = some ([st, lo, hi, pec], moved) →
    exec (.frameRead c) s = .next (readTurn c st s (takeMove s).2) ∧
      (¬ ResetNext s →
        runCommand (.frameRead c) 1 s = .next (readDone c st lo hi pec s { moved with host := afterQuiet 1 s.host }))

/-- A reset can land in TURN, after BusEnd's answer and before BusRequest (R125, R171): the read phase is then never begun, and
the block is as after any reset (R181). -/
def Obligations.ResetInTurnCancelsReadPhase : Prop :=
  ∀ c s st s1 rest, s.busy = false → takeMove s = (some st, s1) → s.host = .reset :: rest →
    ∃ t, runCommand (.frameRead c) 1 s = .next t ∧ t.busy = false ∧ t.phase = .idle ∧ t.resp = 0x0000#16 ∧
      t.err = 0x00#8 ∧ t.lastCrc = 0x00#8 ∧ t.lastPec = 0x00#8 ∧
      t.busLog = s.busLog ++ [.busBegin s.addr, .busWrite c, .busEnd false, .answer st]

/-- R115: the bus events of FRAME.READ. Whatever the bus agent does, and however often the block has gone on with the command,
they are a first part of the fixed sequence; when the agent answers, they are the whole sequence. -/
def Obligations.FrameReadBusSequence : Prop :=
  (∀ c s u k, exec (.frameRead c) s = .next u →
    ∃ st lo hi pec added, (goOn^[k] u).busLog = s.busLog ++ added ∧ added <+: readEvents s.addr c st lo hi pec) ∧
  (∀ c s st lo hi pec moved, s.busy = false → busAnswers 4 s = some ([st, lo, hi, pec], moved) → ¬ ResetNext s →
    ∃ t added, runCommand (.frameRead c) 1 s = .next t ∧ t.busLog = s.busLog ++ added ∧
      added.filter isPrimitive =
        [.busBegin s.addr, .busWrite c, .busEnd false, .wait Config.tTurnaround, .busRequest s.addr 3, .busRead, .busRead,
          .busRead])

/-- R116: FRAME.READ sets ERR.PEC exactly when the computed PEC differs from the received one, at the broadcast address
too; for the source's frame the computed PEC is 0x06. -/
def Obligations.FrameReadPecValidation : Prop :=
  (∀ c s st lo hi pec moved, s.busy = false → s.crcPoly = 0x07#8 → busAnswers 4 s = some ([st, lo, hi, pec], moved) →
    ¬ ResetNext s →
    ∃ t, runCommand (.frameRead c) 1 s = .next t ∧
      (t.err[4] = true ↔ crc8 0x07#8 [writeAddrByte s.addr, c, readAddrByte s.addr, lo, hi] ≠ pec)) ∧
  crc8 0x07#8 [writeAddrByte 0x5A#7, 0x07#8, readAddrByte 0x5A#7, 0x00#8, 0x00#8] = 0x06#8

/-- R117: FRAME.READ returns the reassembled value in RESP whatever the status and the PEC are. -/
def Obligations.FrameReadReturnsValueAlways : Prop :=
  ∀ c s st lo hi pec moved, s.busy = false → busAnswers 4 s = some ([st, lo, hi, pec], moved) → ¬ ResetNext s →
    ∃ t, runCommand (.frameRead c) 1 s = .next t ∧ t.resp.toNat = hi.toNat * 256 + lo.toNat

/-- R121: whatever status the write phase gets, FRAME.READ records its bits and goes on to its read phase: the wait, the
request of three bytes and the first BusRead are issued, and all three BusReads when the bus agent answers them. -/
def Obligations.FailedWritePhaseStillReads : Prop :=
  (∀ c s st s1, s.busy = false → takeMove s = (some st, s1) →
    ∃ u, exec (.frameRead c) s = .next u ∧ u.phase = .turn ∧ u.err &&& 0x0F#8 = statusBits st ∧
      (¬ ResetNext s → ∃ t more, step u = .next t ∧
        t.busLog = s.busLog ++ ([.busBegin s.addr, .busWrite c, .busEnd false, .answer st, .wait Config.tTurnaround,
          .busRequest s.addr 3, .busRead] ++ more))) ∧
  (∀ c s st lo hi pec moved, s.busy = false → busAnswers 4 s = some ([st, lo, hi, pec], moved) → ¬ ResetNext s →
    ∃ t, runCommand (.frameRead c) 1 s = .next t ∧ t.busLog = s.busLog ++ readEvents s.addr c st lo hi pec)

/-! FRAME.WRITE. -/

/-- FRAME.WRITE accepted while the bus agent's next move is an answer completes in this transition, with the state of
R118's pseudocode and everything else, LAST_PEC among it, unchanged (log entries 2 and 3 for where the answer stands). -/
def Obligations.FrameWriteCompletes : Prop :=
  ∀ c v s st moved, s.busy = false → busAnswers 1 s = some ([st], moved) →
    exec (.frameWrite c v) s = .next (writeDone c v st s moved)

/-- R119: the bus events of FRAME.WRITE, with the PEC over the bytes it sends: the whole sequence of primitives, whatever the
bus agent does. -/
def Obligations.FrameWriteBusSequence : Prop :=
  ∀ c v s, s.busy = false →
    let lo := v.extractLsb' 0 8
    let hi := v.extractLsb' 8 8
    ∃ t added, exec (.frameWrite c v) s = .next t ∧ t.busLog = s.busLog ++ added ∧
      added.filter isPrimitive =
        [.busBegin s.addr, .busWrite c, .busWrite lo, .busWrite hi,
          .busWrite (crc8 s.crcPoly [writeAddrByte s.addr, c, lo, hi]), .busEnd true]

/-! Policies of both frame commands. -/

/-- R120: at the broadcast address ADDR_NACK and DATA_NACK are clear after either frame command, TOO_LONG and OTHER stay as
the status set them, the host's bits are kept; at any other address the status bits stay. -/
def Obligations.BroadcastSuppression : Prop :=
  let policy := fun (s t : State) (st : Byte) =>
    t.err &&& 0x60#8 = s.err &&& 0x60#8 ∧
      (s.addr = 0x00#7 → t.err &&& 0x0F#8 = statusBits st &&& 0x09#8) ∧
      (s.addr ≠ 0x00#7 → t.err &&& 0x0F#8 = statusBits st)
  (∀ c s st lo hi pec moved, s.busy = false → busAnswers 4 s = some ([st, lo, hi, pec], moved) → ¬ ResetNext s →
    ∃ t, runCommand (.frameRead c) 1 s = .next t ∧ policy s t st ∧
      (t.err[4] = true ↔ crc8 s.crcPoly [writeAddrByte s.addr, c, readAddrByte s.addr, lo, hi] ≠ pec)) ∧
  (∀ c v s st moved, s.busy = false → busAnswers 1 s = some ([st], moved) →
    ∃ t, exec (.frameWrite c v) s = .next t ∧ policy s t st ∧ t.err[4] = false)

/-- ERR[4:0] after a completed frame command depends on that command only, not on what ERR held before (41_frame_builder.md
section 4): two states that agree on ADDR and CRC_POLY and get the same answers end with the same ERR[4:0]. -/
def Obligations.FrameErrorsDependOnThisCommandOnly : Prop :=
  (∀ c s1 s2 st lo hi pec m1 m2, s1.busy = false → s2.busy = false → s1.addr = s2.addr → s1.crcPoly = s2.crcPoly →
    busAnswers 4 s1 = some ([st, lo, hi, pec], m1) → busAnswers 4 s2 = some ([st, lo, hi, pec], m2) →
    ¬ ResetNext s1 → ¬ ResetNext s2 →
    ∃ t1 t2, runCommand (.frameRead c) 1 s1 = .next t1 ∧ runCommand (.frameRead c) 1 s2 = .next t2 ∧
      t1.err &&& 0x1F#8 = t2.err &&& 0x1F#8) ∧
  (∀ c v s1 s2 st m1 m2, s1.busy = false → s2.busy = false → s1.addr = s2.addr →
    busAnswers 1 s1 = some ([st], m1) → busAnswers 1 s2 = some ([st], m2) →
    ∃ t1 t2, exec (.frameWrite c v) s1 = .next t1 ∧ exec (.frameWrite c v) s2 = .next t2 ∧
      t1.err &&& 0x1F#8 = t2.err &&& 0x1F#8)

/-- A frame command whose bus agent stays silent waits with BUSY = 1: FRAME.READ at its BusEnd and, after its status and n of
its bytes, at its first, second or third BusRead (95_test_vectors.md FS1, FS2), FRAME.WRITE at its BusEnd. Only the updates
before the wait have been made. Silence as a move is the model's form (log entry 2). -/
def Obligations.SilentBusStallsFrameCommands : Prop :=
  (∀ c s s1, s.busy = false → takeMove s = (none, s1) →
    exec (.frameRead c) s = .next { s1 with
      err := s.err &&& 0x60#8
      busy := true
      fbAcc := 0x00#8
      phase := .wPhase
      xfer := { s.xfer with kind := .read, a := s.addr, c := c, awaits := .lo }
      busLog := s.busLog ++ [.busBegin s.addr, .busWrite c, .busEnd false] }) ∧
  (∀ c s n st bytes s1 s2, n ≤ 2 → s.busy = false → busAnswers (n + 1) s = some (st :: bytes, s1) →
    takeMove s1 = (none, s2) → ¬ ResetNext s →
    ∃ t, runCommand (.frameRead c) 1 s = .next t ∧ t.busy = true ∧ t.phase = .rPhase ∧
      t.err = (s.err &&& 0x60#8) ||| statusBits st ∧ t.lastCrc = s.lastCrc ∧ t.lastPec = s.lastPec ∧ t.resp = s.resp ∧
      t.busLog = s.busLog ++ (readEvents s.addr c st (bytes.getD 0 0) (bytes.getD 1 0) 0).take (7 + 2 * n)) ∧
  (∀ c v s s1, s.busy = false → takeMove s = (none, s1) →
    ∃ t, exec (.frameWrite c v) s = .next t ∧ t.busy = true ∧ t.phase = .wPhase ∧ t.err = s.err &&& 0x60#8 ∧
      t.lastCrc = crc8 s.crcPoly [writeAddrByte s.addr, c, v.extractLsb' 0 8, v.extractLsb' 8 8] ∧
      t.lastPec = s.lastPec ∧ t.resp = s.resp)

/-- As long as the bus agent stays silent, by script or by free draws, and the host does not reset, a waiting frame command
stays where it is, with BUSY = 1 and no word of the host taken; a reset ends it (R123). That the run goes on with the host's
words kept is log entry 5, and silence as a move is log entry 2. -/
def Obligations.StalledFrameLeavesOnlyByReset : Prop :=
  (∀ k s s1, Stalled s → takeMoves (List.replicate k none) s = some s1 → (∀ e ∈ s.host, e ≠ .reset) →
    ∃ t, runSteps k s = .next t ∧ t = { s1 with host := afterQuiet k s.host } ∧ Stalled t ∧ t.phase = s.phase ∧
      hostWords t.host = hostWords s.host ∧ t.crcAcc = s.crcAcc ∧ t.addr = s.addr ∧ t.err = s.err ∧ t.resp = s.resp ∧
      t.lastCrc = s.lastCrc ∧ t.lastPec = s.lastPec ∧ t.busLog = s.busLog) ∧
  (∀ s rest, Stalled s → s.host = .reset :: rest → ∃ t, step s = .next t ∧ t.busy = false)

/-- A FRAME.READ whose four answers each come after any number of silent steps ends in the state it would have ended in at
once: the host sees the same command (20_memory.md R58, R61). The number of steps, two more than the silences (one of them
ends TURN), and silence as a move are the model's form (log entries 2 and 3). -/
def Obligations.DelayedFrameReadEndsTheSame : Prop :=
  ∀ c s w rest k0 k1 k2 k3 st lo hi pec moved, s.busy = false → s.host = .word w :: rest →
    decode w = .command (.frameRead c) → (∀ e ∈ rest, e ≠ .reset) →
    takeMoves (List.replicate k0 none ++ some st :: (List.replicate k1 none ++ some lo :: (List.replicate k2 none ++
      some hi :: (List.replicate k3 none ++ [some pec])))) s = some moved →
    runSteps (2 + (k0 + k1 + k2 + k3)) s =
      .next (readDone c st lo hi pec s { moved with host := afterQuiet (1 + (k0 + k1 + k2 + k3)) rest })

/-- The same for FRAME.WRITE and its one status, with one step more than the silences (log entries 2 and 3). -/
def Obligations.DelayedFrameWriteEndsTheSame : Prop :=
  ∀ c v s w rest k st moved, s.busy = false → s.host = .word w :: rest → decode w = .command (.frameWrite c v) →
    (∀ e ∈ rest, e ≠ .reset) → takeMoves (List.replicate k none ++ [some st]) s = some moved →
    runSteps (1 + k) s = .next (writeDone c v st s { moved with host := afterQuiet k rest })

/-- While BUSY = 1 after a step, RESP and LAST_PEC still hold what they held before it (70_reset_and_hazards.md section 2). -/
def Obligations.ResultsHeldWhileBusy : Prop :=
  ∀ s t, step s = .next t → t.busy = true → t.resp = s.resp ∧ t.lastPec = s.lastPec

/-- The frame of the frame commands, in the transition that accepts them and in every one that goes on with them: CRC_ACC,
CRC_POLY, ADDR and ERR[6:5] are unchanged, the host's events too, and FRAME.WRITE leaves LAST_PEC. The block has no memory
(R50). -/
def Obligations.FrameCommandsFrame : Prop :=
  let kept := fun s t : State =>
    t.crcAcc = s.crcAcc ∧ t.crcPoly = s.crcPoly ∧ t.addr = s.addr ∧ t.host = s.host ∧
      t.err &&& 0x60#8 = s.err &&& 0x60#8
  (∀ i s t, isFrame i = true → exec i s = .next t →
    kept s t ∧ (∀ c v, i = .frameWrite c v → t.lastPec = s.lastPec)) ∧
  ∀ s, kept s (goOn s) ∧ (s.xfer.kind = .write → (goOn s).lastPec = s.lastPec)

/-! Register access. -/

/-- R141: REG.READ shows the register of its index in RESP, zero-extended, and changes nothing else. -/
def Obligations.RegReadShowsRegister : Prop :=
  ∀ s, s.busy = false →
    exec (.regRead 0x00#8) s = .next { s with resp := s.crcAcc.setWidth 16 } ∧
    exec (.regRead 0x01#8) s = .next { s with resp := s.crcPoly.setWidth 16 } ∧
    (s.crcPoly = 0x07#8 → exec (.regRead 0x01#8) s = .next { s with resp := 0x0007#16 }) ∧
    exec (.regRead 0x02#8) s = .next { s with resp := s.addr.setWidth 16 } ∧
    exec (.regRead 0x03#8) s = .next { s with resp := (s.err &&& 0x7F#8).setWidth 16 } ∧
    exec (.regRead 0x04#8) s = .next { s with resp := s.lastCrc.setWidth 16 } ∧
    exec (.regRead 0x05#8) s = .next { s with resp := s.lastPec.setWidth 16 }

/-- R143: REG.WRITE of index 0x02 sets ADDR to v[6:0] and RESP to 0, with no bus activity and nothing else changed; a frame
command after it uses the new address. -/
def Obligations.RegWriteAddr : Prop :=
  ∀ (v : Value) s, s.busy = false →
    let t : State := { s with addr := v.extractLsb' 0 7, resp := 0x0000#16 }
    exec (.regWrite 0x02#8 v) s = .next t ∧
      ∀ c x, (∃ u more, exec (.frameRead c) t = .next u ∧ u.busLog = s.busLog ++ .busBegin (v.extractLsb' 0 7) :: more) ∧
        ∃ u more, exec (.frameWrite c x) t = .next u ∧ u.busLog = s.busLog ++ .busBegin (v.extractLsb' 0 7) :: more

/-- R144: REG.WRITE of index 0x03 replaces the seven defined ERR bits, bit 7 stays 0; RESP is 0, nothing else changes. The
host's three uses: emptying the mask, and setting SEM or CORRUPT by writing back what it read with the bit set. -/
def Obligations.RegWriteErr : Prop :=
  ∀ (v : Value) s, s.busy = false →
    exec (.regWrite 0x03#8 v) s = .next { s with err := (v.extractLsb' 0 7).setWidth 8, resp := 0x0000#16 } ∧
    exec (.regWrite 0x03#8 0x0000#16) s = .next { s with err := 0x00#8, resp := 0x0000#16 } ∧
    ∀ r, exec (.regRead 0x03#8) s = .next r →
      exec (.regWrite 0x03#8 (r.resp ||| 0x0020#16)) r = .next { s with err := (s.err &&& 0x7F#8) ||| 0x20#8, resp := 0x0000#16 } ∧
      exec (.regWrite 0x03#8 (r.resp ||| 0x0040#16)) r = .next { s with err := (s.err &&& 0x7F#8) ||| 0x40#8, resp := 0x0000#16 }

/-- R145: REG.WRITE of a read-only register writes RESP 0 and nothing else. -/
def Obligations.RegWriteReadOnlyHasNoEffect : Prop :=
  ∀ (v : Value) s, s.busy = false → ∀ i : Byte, i = 0x00#8 ∨ i = 0x01#8 ∨ i = 0x04#8 ∨ i = 0x05#8 →
    exec (.regWrite i v) s = .next { s with resp := 0x0000#16 }

/-- R78, for the meanings themselves: a reserved register index is refused and every other one completes. -/
def Obligations.RegisterIndexRange : Prop :=
  ∀ (i : Byte) (v : Value) s, s.busy = false →
    (0x05#8 < i → exec (.regRead i) s = .refused .reservedIndex ∧ exec (.regWrite i v) s = .refused .reservedIndex) ∧
    (i ≤ 0x05#8 → (∃ t, exec (.regRead i) s = .next t) ∧ ∃ t, exec (.regWrite i v) s = .next t)

/-- The frame of the four commands that complete at once: BUSY, PHASE, FB_ACC, the transfer, LAST_CRC, LAST_PEC, CRC_POLY,
the bus and the host's events are unchanged; CRC_ACC changes by a CRC command only, ADDR by REG.WRITE ADDR only, ERR by
REG.WRITE ERR only. -/
def Obligations.ImmediateCommandsFrame : Prop :=
  ∀ i s t, isFrame i = false → exec i s = .next t →
    t.busy = s.busy ∧ t.phase = s.phase ∧ t.fbAcc = s.fbAcc ∧ t.xfer = s.xfer ∧ t.lastCrc = s.lastCrc ∧
      t.lastPec = s.lastPec ∧ t.crcPoly = s.crcPoly ∧ t.host = s.host ∧ t.busIn = s.busIn ∧ t.busDraws = s.busDraws ∧
      t.busLog = s.busLog ∧ (isCrc i = false → t.crcAcc = s.crcAcc) ∧
      ((∀ v, i ≠ .regWrite 0x02#8 v) → t.addr = s.addr) ∧ ((∀ v, i ≠ .regWrite 0x03#8 v) → t.err = s.err)

/-! Who writes a register: the whole machine. -/

/-- R22: CRC_POLY is 0x07 at reset and after every step from a state in which it is. -/
def Obligations.CrcPolyNeverChanges : Prop :=
  State.reset.crcPoly = 0x07#8 ∧ ∀ s t, s.crcPoly = 0x07#8 → step s = .next t → t.crcPoly = 0x07#8

/-- CRC_ACC changes only by CRC.RESET, CRC.UPDATE and reset (10_state.md section 2): no frame or register command, and no
waiting, changes it. -/
def Obligations.CrcAccWriters : Prop :=
  ∀ s t, step s = .next t → t.crcAcc = s.crcAcc ∨ ResetNext s ∨ CommandNext .crcReset s ∨ ∃ b, CommandNext (.crcUpdate b) s

/-- ADDR changes only by REG.WRITE ADDR, to v[6:0], and by reset (10_state.md section 3). -/
def Obligations.AddrWriters : Prop :=
  ∀ s t, step s = .next t →
    t.addr = s.addr ∨ ResetNext s ∨ ∃ v, CommandNext (.regWrite 0x02#8 v) s ∧ t.addr = v.extractLsb' 0 7

/-- SEM and CORRUPT change only by REG.WRITE ERR and reset (10_state.md R25's table): no frame command sets or clears them. -/
def Obligations.HostErrorBitsWriters : Prop :=
  ∀ s t, step s = .next t →
    t.err &&& 0x60#8 = s.err &&& 0x60#8 ∨ ResetNext s ∨ ∃ v, CommandNext (.regWrite 0x03#8 v) s

/-- LAST_CRC changes only by a frame command, to the frame builder's accumulator, or by reset; LAST_PEC only by the end of a
FRAME.READ, to the PEC byte received, or by reset (10_state.md section 3). -/
def Obligations.DiagnosticRegisterWriters : Prop :=
  ∀ s t, step s = .next t →
    let inFrame := s.busy = true ∨ ∃ i, isFrame i = true ∧ CommandNext i s
    (t.lastCrc = s.lastCrc ∨ ResetNext s ∨ (inFrame ∧ t.lastCrc = t.fbAcc)) ∧
    (t.lastPec = s.lastPec ∨ ResetNext s ∨ (inFrame ∧ t.busy = false ∧ t.xfer.kind = .read ∧ t.lastPec = t.xfer.pec))
end

