-- ==== Sys2Proof/Laws/State.lean ====
section
/-! SUPPORT. Each named update of the state, field by field; all true by definition. -/

namespace Sys2Proof.Machine

@[simp] theorem setResp_crcAcc (v : Value) (s : State) : (setResp v s).crcAcc = s.crcAcc := rfl
@[simp] theorem setResp_crcPoly (v : Value) (s : State) : (setResp v s).crcPoly = s.crcPoly := rfl
@[simp] theorem setResp_addr (v : Value) (s : State) : (setResp v s).addr = s.addr := rfl
@[simp] theorem setResp_err (v : Value) (s : State) : (setResp v s).err = s.err := rfl
@[simp] theorem setResp_lastCrc (v : Value) (s : State) : (setResp v s).lastCrc = s.lastCrc := rfl
@[simp] theorem setResp_lastPec (v : Value) (s : State) : (setResp v s).lastPec = s.lastPec := rfl
@[simp] theorem setResp_resp (v : Value) (s : State) : (setResp v s).resp = v := rfl
@[simp] theorem setResp_busy (v : Value) (s : State) : (setResp v s).busy = s.busy := rfl
@[simp] theorem setResp_fbAcc (v : Value) (s : State) : (setResp v s).fbAcc = s.fbAcc := rfl
@[simp] theorem setResp_phase (v : Value) (s : State) : (setResp v s).phase = s.phase := rfl
@[simp] theorem setResp_xfer (v : Value) (s : State) : (setResp v s).xfer = s.xfer := rfl
@[simp] theorem setResp_host (v : Value) (s : State) : (setResp v s).host = s.host := rfl
@[simp] theorem setResp_busIn (v : Value) (s : State) : (setResp v s).busIn = s.busIn := rfl
@[simp] theorem setResp_busDraws (v : Value) (s : State) : (setResp v s).busDraws = s.busDraws := rfl
@[simp] theorem setResp_busLog (v : Value) (s : State) : (setResp v s).busLog = s.busLog := rfl

@[simp] theorem writeErr_crcAcc (e : Byte) (s : State) : (writeErr e s).crcAcc = s.crcAcc := rfl
@[simp] theorem writeErr_crcPoly (e : Byte) (s : State) : (writeErr e s).crcPoly = s.crcPoly := rfl
@[simp] theorem writeErr_addr (e : Byte) (s : State) : (writeErr e s).addr = s.addr := rfl
@[simp] theorem writeErr_err (e : Byte) (s : State) : (writeErr e s).err = e &&& errDefined := rfl
@[simp] theorem writeErr_lastCrc (e : Byte) (s : State) : (writeErr e s).lastCrc = s.lastCrc := rfl
@[simp] theorem writeErr_lastPec (e : Byte) (s : State) : (writeErr e s).lastPec = s.lastPec := rfl
@[simp] theorem writeErr_resp (e : Byte) (s : State) : (writeErr e s).resp = s.resp := rfl
@[simp] theorem writeErr_busy (e : Byte) (s : State) : (writeErr e s).busy = s.busy := rfl
@[simp] theorem writeErr_fbAcc (e : Byte) (s : State) : (writeErr e s).fbAcc = s.fbAcc := rfl
@[simp] theorem writeErr_phase (e : Byte) (s : State) : (writeErr e s).phase = s.phase := rfl
@[simp] theorem writeErr_xfer (e : Byte) (s : State) : (writeErr e s).xfer = s.xfer := rfl
@[simp] theorem writeErr_host (e : Byte) (s : State) : (writeErr e s).host = s.host := rfl
@[simp] theorem writeErr_busIn (e : Byte) (s : State) : (writeErr e s).busIn = s.busIn := rfl
@[simp] theorem writeErr_busDraws (e : Byte) (s : State) : (writeErr e s).busDraws = s.busDraws := rfl
@[simp] theorem writeErr_busLog (e : Byte) (s : State) : (writeErr e s).busLog = s.busLog := rfl

@[simp] theorem orErr_crcAcc (e : Byte) (s : State) : (orErr e s).crcAcc = s.crcAcc := rfl
@[simp] theorem orErr_crcPoly (e : Byte) (s : State) : (orErr e s).crcPoly = s.crcPoly := rfl
@[simp] theorem orErr_addr (e : Byte) (s : State) : (orErr e s).addr = s.addr := rfl
@[simp] theorem orErr_err (e : Byte) (s : State) : (orErr e s).err = (readErr s ||| e) &&& errDefined := rfl
@[simp] theorem orErr_lastCrc (e : Byte) (s : State) : (orErr e s).lastCrc = s.lastCrc := rfl
@[simp] theorem orErr_lastPec (e : Byte) (s : State) : (orErr e s).lastPec = s.lastPec := rfl
@[simp] theorem orErr_resp (e : Byte) (s : State) : (orErr e s).resp = s.resp := rfl
@[simp] theorem orErr_busy (e : Byte) (s : State) : (orErr e s).busy = s.busy := rfl
@[simp] theorem orErr_fbAcc (e : Byte) (s : State) : (orErr e s).fbAcc = s.fbAcc := rfl
@[simp] theorem orErr_phase (e : Byte) (s : State) : (orErr e s).phase = s.phase := rfl
@[simp] theorem orErr_xfer (e : Byte) (s : State) : (orErr e s).xfer = s.xfer := rfl
@[simp] theorem orErr_host (e : Byte) (s : State) : (orErr e s).host = s.host := rfl
@[simp] theorem orErr_busIn (e : Byte) (s : State) : (orErr e s).busIn = s.busIn := rfl
@[simp] theorem orErr_busDraws (e : Byte) (s : State) : (orErr e s).busDraws = s.busDraws := rfl
@[simp] theorem orErr_busLog (e : Byte) (s : State) : (orErr e s).busLog = s.busLog := rfl

@[simp] theorem emit_crcAcc (es : List BusEvent) (s : State) : (emit es s).crcAcc = s.crcAcc := rfl
@[simp] theorem emit_crcPoly (es : List BusEvent) (s : State) : (emit es s).crcPoly = s.crcPoly := rfl
@[simp] theorem emit_addr (es : List BusEvent) (s : State) : (emit es s).addr = s.addr := rfl
@[simp] theorem emit_err (es : List BusEvent) (s : State) : (emit es s).err = s.err := rfl
@[simp] theorem emit_lastCrc (es : List BusEvent) (s : State) : (emit es s).lastCrc = s.lastCrc := rfl
@[simp] theorem emit_lastPec (es : List BusEvent) (s : State) : (emit es s).lastPec = s.lastPec := rfl
@[simp] theorem emit_resp (es : List BusEvent) (s : State) : (emit es s).resp = s.resp := rfl
@[simp] theorem emit_busy (es : List BusEvent) (s : State) : (emit es s).busy = s.busy := rfl
@[simp] theorem emit_fbAcc (es : List BusEvent) (s : State) : (emit es s).fbAcc = s.fbAcc := rfl
@[simp] theorem emit_phase (es : List BusEvent) (s : State) : (emit es s).phase = s.phase := rfl
@[simp] theorem emit_xfer (es : List BusEvent) (s : State) : (emit es s).xfer = s.xfer := rfl
@[simp] theorem emit_host (es : List BusEvent) (s : State) : (emit es s).host = s.host := rfl
@[simp] theorem emit_busIn (es : List BusEvent) (s : State) : (emit es s).busIn = s.busIn := rfl
@[simp] theorem emit_busDraws (es : List BusEvent) (s : State) : (emit es s).busDraws = s.busDraws := rfl
@[simp] theorem emit_busLog (es : List BusEvent) (s : State) : (emit es s).busLog = s.busLog ++ es := rfl

@[simp] theorem becomeIdle_crcAcc (s : State) : (becomeIdle s).crcAcc = s.crcAcc := rfl
@[simp] theorem becomeIdle_crcPoly (s : State) : (becomeIdle s).crcPoly = s.crcPoly := rfl
@[simp] theorem becomeIdle_addr (s : State) : (becomeIdle s).addr = s.addr := rfl
@[simp] theorem becomeIdle_err (s : State) : (becomeIdle s).err = s.err := rfl
@[simp] theorem becomeIdle_lastCrc (s : State) : (becomeIdle s).lastCrc = s.lastCrc := rfl
@[simp] theorem becomeIdle_lastPec (s : State) : (becomeIdle s).lastPec = s.lastPec := rfl
@[simp] theorem becomeIdle_resp (s : State) : (becomeIdle s).resp = s.resp := rfl
@[simp] theorem becomeIdle_busy (s : State) : (becomeIdle s).busy = false := rfl
@[simp] theorem becomeIdle_fbAcc (s : State) : (becomeIdle s).fbAcc = s.fbAcc := rfl
@[simp] theorem becomeIdle_phase (s : State) : (becomeIdle s).phase = .idle := rfl
@[simp] theorem becomeIdle_xfer (s : State) : (becomeIdle s).xfer = s.xfer := rfl
@[simp] theorem becomeIdle_host (s : State) : (becomeIdle s).host = s.host := rfl
@[simp] theorem becomeIdle_busIn (s : State) : (becomeIdle s).busIn = s.busIn := rfl
@[simp] theorem becomeIdle_busDraws (s : State) : (becomeIdle s).busDraws = s.busDraws := rfl
@[simp] theorem becomeIdle_busLog (s : State) : (becomeIdle s).busLog = s.busLog := rfl

@[simp] theorem resetBlock_crcAcc (s : State) : (resetBlock s).crcAcc = 0x00#8 := rfl
@[simp] theorem resetBlock_crcPoly (s : State) : (resetBlock s).crcPoly = Config.pPoly := rfl
@[simp] theorem resetBlock_addr (s : State) : (resetBlock s).addr = Config.pAddrDefault := rfl
@[simp] theorem resetBlock_err (s : State) : (resetBlock s).err = 0x00#8 := rfl
@[simp] theorem resetBlock_lastCrc (s : State) : (resetBlock s).lastCrc = 0x00#8 := rfl
@[simp] theorem resetBlock_lastPec (s : State) : (resetBlock s).lastPec = 0x00#8 := rfl
@[simp] theorem resetBlock_resp (s : State) : (resetBlock s).resp = 0x0000#16 := rfl
@[simp] theorem resetBlock_busy (s : State) : (resetBlock s).busy = false := rfl
@[simp] theorem resetBlock_fbAcc (s : State) : (resetBlock s).fbAcc = 0x00#8 := rfl
@[simp] theorem resetBlock_phase (s : State) : (resetBlock s).phase = .idle := rfl
@[simp] theorem resetBlock_xfer (s : State) : (resetBlock s).xfer = Transfer.reset := rfl
@[simp] theorem resetBlock_host (s : State) : (resetBlock s).host = s.host := rfl
@[simp] theorem resetBlock_busIn (s : State) : (resetBlock s).busIn = s.busIn := rfl
@[simp] theorem resetBlock_busDraws (s : State) : (resetBlock s).busDraws = s.busDraws := rfl
@[simp] theorem resetBlock_busLog (s : State) : (resetBlock s).busLog = s.busLog := rfl

/-- Reading ERR after writing it: the defined bits of what was written. -/
@[simp] theorem readErr_writeErr (e : Byte) (s : State) : readErr (writeErr e s) = e &&& errDefined := by
  simp [readErr, BitVec.and_assoc]

/-- ERR never shows its reserved bit. -/
theorem readErr_reserved_zero (s : State) : (readErr s)[7] = false := by
  simp [readErr, errDefined]

/-- No write sets ERR's reserved bit. -/
theorem writeErr_reserved_zero (e : Byte) (s : State) : (writeErr e s).err[7] = false := by
  simp [errDefined]

end Sys2Proof.Machine
end

