-- ==== Sys2Proof/Laws/FrameFields.lean ====
section
/-! SUPPORT. The frame builder's updates of the state, field by field. -/

namespace Sys2Proof.Machine

@[simp] theorem acceptRead_crcAcc (c : Byte) (s : State) : (acceptRead c s).crcAcc = s.crcAcc := rfl
@[simp] theorem acceptRead_crcPoly (c : Byte) (s : State) : (acceptRead c s).crcPoly = s.crcPoly := rfl
@[simp] theorem acceptRead_addr (c : Byte) (s : State) : (acceptRead c s).addr = s.addr := rfl
@[simp] theorem acceptRead_err (c : Byte) (s : State) :
    (acceptRead c s).err = startClear (readErr s) &&& errDefined := rfl
@[simp] theorem acceptRead_lastCrc (c : Byte) (s : State) : (acceptRead c s).lastCrc = s.lastCrc := rfl
@[simp] theorem acceptRead_lastPec (c : Byte) (s : State) : (acceptRead c s).lastPec = s.lastPec := rfl
@[simp] theorem acceptRead_resp (c : Byte) (s : State) : (acceptRead c s).resp = s.resp := rfl
@[simp] theorem acceptRead_busy (c : Byte) (s : State) : (acceptRead c s).busy = true := rfl
@[simp] theorem acceptRead_fbAcc (c : Byte) (s : State) : (acceptRead c s).fbAcc = 0x00#8 := rfl
@[simp] theorem acceptRead_phase (c : Byte) (s : State) : (acceptRead c s).phase = .wPhase := rfl
@[simp] theorem acceptRead_xfer (c : Byte) (s : State) :
    (acceptRead c s).xfer = { s.xfer with kind := .read, a := s.addr, c := c, awaits := .lo } := rfl
@[simp] theorem acceptRead_host (c : Byte) (s : State) : (acceptRead c s).host = s.host := rfl
@[simp] theorem acceptRead_busIn (c : Byte) (s : State) : (acceptRead c s).busIn = s.busIn := rfl
@[simp] theorem acceptRead_busDraws (c : Byte) (s : State) : (acceptRead c s).busDraws = s.busDraws := rfl
@[simp] theorem acceptRead_busLog (c : Byte) (s : State) :
    (acceptRead c s).busLog = s.busLog ++ [.busBegin s.addr, .busWrite c, .busEnd false] := rfl

@[simp] theorem acceptWrite_crcAcc (c : Byte) (v : Value) (s : State) : (acceptWrite c v s).crcAcc = s.crcAcc := rfl
@[simp] theorem acceptWrite_crcPoly (c : Byte) (v : Value) (s : State) :
    (acceptWrite c v s).crcPoly = s.crcPoly := rfl
@[simp] theorem acceptWrite_addr (c : Byte) (v : Value) (s : State) : (acceptWrite c v s).addr = s.addr := rfl
@[simp] theorem acceptWrite_err (c : Byte) (v : Value) (s : State) :
    (acceptWrite c v s).err = startClear (readErr s) &&& errDefined := rfl
@[simp] theorem acceptWrite_lastCrc (c : Byte) (v : Value) (s : State) :
    (acceptWrite c v s).lastCrc = crc8 s.crcPoly (writePecBytes s.addr c (lowByte v) (highByte v)) := rfl
@[simp] theorem acceptWrite_lastPec (c : Byte) (v : Value) (s : State) :
    (acceptWrite c v s).lastPec = s.lastPec := rfl
@[simp] theorem acceptWrite_resp (c : Byte) (v : Value) (s : State) : (acceptWrite c v s).resp = s.resp := rfl
@[simp] theorem acceptWrite_busy (c : Byte) (v : Value) (s : State) : (acceptWrite c v s).busy = true := rfl
@[simp] theorem acceptWrite_fbAcc (c : Byte) (v : Value) (s : State) :
    (acceptWrite c v s).fbAcc = crc8 s.crcPoly (writePecBytes s.addr c (lowByte v) (highByte v)) := rfl
@[simp] theorem acceptWrite_phase (c : Byte) (v : Value) (s : State) : (acceptWrite c v s).phase = .wPhase := rfl
@[simp] theorem acceptWrite_xfer (c : Byte) (v : Value) (s : State) :
    (acceptWrite c v s).xfer = { s.xfer with kind := .write, a := s.addr, c := c, lo := lowByte v, hi := highByte v, pec := crc8 s.crcPoly (writePecBytes s.addr c (lowByte v) (highByte v)) } := rfl
@[simp] theorem acceptWrite_host (c : Byte) (v : Value) (s : State) : (acceptWrite c v s).host = s.host := rfl
@[simp] theorem acceptWrite_busIn (c : Byte) (v : Value) (s : State) : (acceptWrite c v s).busIn = s.busIn := rfl
@[simp] theorem acceptWrite_busDraws (c : Byte) (v : Value) (s : State) :
    (acceptWrite c v s).busDraws = s.busDraws := rfl
@[simp] theorem acceptWrite_busLog (c : Byte) (v : Value) (s : State) :
    (acceptWrite c v s).busLog = s.busLog ++ [.busBegin s.addr, .busWrite c, .busWrite (lowByte v), .busWrite (highByte v), .busWrite (crc8 s.crcPoly (writePecBytes s.addr c (lowByte v) (highByte v))), .busEnd true] := rfl

@[simp] theorem endWritePhase_crcAcc (st : Byte) (s : State) : (endWritePhase st s).crcAcc = s.crcAcc := rfl
@[simp] theorem endWritePhase_crcPoly (st : Byte) (s : State) : (endWritePhase st s).crcPoly = s.crcPoly := rfl
@[simp] theorem endWritePhase_addr (st : Byte) (s : State) : (endWritePhase st s).addr = s.addr := rfl
@[simp] theorem endWritePhase_err (st : Byte) (s : State) :
    (endWritePhase st s).err = (readErr s ||| statusBits st) &&& errDefined := rfl
@[simp] theorem endWritePhase_lastCrc (st : Byte) (s : State) : (endWritePhase st s).lastCrc = s.lastCrc := rfl
@[simp] theorem endWritePhase_lastPec (st : Byte) (s : State) : (endWritePhase st s).lastPec = s.lastPec := rfl
@[simp] theorem endWritePhase_resp (st : Byte) (s : State) : (endWritePhase st s).resp = s.resp := rfl
@[simp] theorem endWritePhase_busy (st : Byte) (s : State) : (endWritePhase st s).busy = s.busy := rfl
@[simp] theorem endWritePhase_fbAcc (st : Byte) (s : State) : (endWritePhase st s).fbAcc = s.fbAcc := rfl
@[simp] theorem endWritePhase_phase (st : Byte) (s : State) :
    (endWritePhase st s).phase = (match s.xfer.kind with | .read => .turn | .write => .done) := rfl
@[simp] theorem endWritePhase_xfer (st : Byte) (s : State) : (endWritePhase st s).xfer = s.xfer := rfl
@[simp] theorem endWritePhase_host (st : Byte) (s : State) : (endWritePhase st s).host = s.host := rfl
@[simp] theorem endWritePhase_busIn (st : Byte) (s : State) : (endWritePhase st s).busIn = s.busIn := rfl
@[simp] theorem endWritePhase_busDraws (st : Byte) (s : State) : (endWritePhase st s).busDraws = s.busDraws := rfl
@[simp] theorem endWritePhase_busLog (st : Byte) (s : State) :
    (endWritePhase st s).busLog = s.busLog ++ [.answer st] := rfl

@[simp] theorem startReadPhase_crcAcc (s : State) : (startReadPhase s).crcAcc = s.crcAcc := rfl
@[simp] theorem startReadPhase_crcPoly (s : State) : (startReadPhase s).crcPoly = s.crcPoly := rfl
@[simp] theorem startReadPhase_addr (s : State) : (startReadPhase s).addr = s.addr := rfl
@[simp] theorem startReadPhase_err (s : State) : (startReadPhase s).err = s.err := rfl
@[simp] theorem startReadPhase_lastCrc (s : State) : (startReadPhase s).lastCrc = s.lastCrc := rfl
@[simp] theorem startReadPhase_lastPec (s : State) : (startReadPhase s).lastPec = s.lastPec := rfl
@[simp] theorem startReadPhase_resp (s : State) : (startReadPhase s).resp = s.resp := rfl
@[simp] theorem startReadPhase_busy (s : State) : (startReadPhase s).busy = s.busy := rfl
@[simp] theorem startReadPhase_fbAcc (s : State) : (startReadPhase s).fbAcc = s.fbAcc := rfl
@[simp] theorem startReadPhase_phase (s : State) : (startReadPhase s).phase = .rPhase := rfl
@[simp] theorem startReadPhase_xfer (s : State) : (startReadPhase s).xfer = s.xfer := rfl
@[simp] theorem startReadPhase_host (s : State) : (startReadPhase s).host = s.host := rfl
@[simp] theorem startReadPhase_busIn (s : State) : (startReadPhase s).busIn = s.busIn := rfl
@[simp] theorem startReadPhase_busDraws (s : State) : (startReadPhase s).busDraws = s.busDraws := rfl
@[simp] theorem startReadPhase_busLog (s : State) :
    (startReadPhase s).busLog = s.busLog ++ [.wait Config.tTurnaround, .busRequest s.xfer.a Config.pReadLen, .busRead] := rfl

@[simp] theorem finishRead_crcAcc (s : State) : (finishRead s).crcAcc = s.crcAcc := rfl
@[simp] theorem finishRead_crcPoly (s : State) : (finishRead s).crcPoly = s.crcPoly := rfl
@[simp] theorem finishRead_addr (s : State) : (finishRead s).addr = s.addr := rfl
@[simp] theorem finishRead_err (s : State) :
    (finishRead s).err = suppressBroadcast Config.pBcastSuppressMask s.xfer.a
        ((readErr s ||| pecBits (crc8 s.crcPoly (readPecBytes s.xfer.a s.xfer.c s.xfer.lo s.xfer.hi)) s.xfer.pec) &&& errDefined &&& errDefined) &&& errDefined := rfl
@[simp] theorem finishRead_lastCrc (s : State) :
    (finishRead s).lastCrc = crc8 s.crcPoly (readPecBytes s.xfer.a s.xfer.c s.xfer.lo s.xfer.hi) := rfl
@[simp] theorem finishRead_lastPec (s : State) : (finishRead s).lastPec = s.xfer.pec := rfl
@[simp] theorem finishRead_resp (s : State) : (finishRead s).resp = joinBytes s.xfer.hi s.xfer.lo := rfl
@[simp] theorem finishRead_busy (s : State) : (finishRead s).busy = false := rfl
@[simp] theorem finishRead_fbAcc (s : State) :
    (finishRead s).fbAcc = crc8 s.crcPoly (readPecBytes s.xfer.a s.xfer.c s.xfer.lo s.xfer.hi) := rfl
@[simp] theorem finishRead_phase (s : State) : (finishRead s).phase = .idle := rfl
@[simp] theorem finishRead_xfer (s : State) : (finishRead s).xfer = s.xfer := rfl
@[simp] theorem finishRead_host (s : State) : (finishRead s).host = s.host := rfl
@[simp] theorem finishRead_busIn (s : State) : (finishRead s).busIn = s.busIn := rfl
@[simp] theorem finishRead_busDraws (s : State) : (finishRead s).busDraws = s.busDraws := rfl
@[simp] theorem finishRead_busLog (s : State) : (finishRead s).busLog = s.busLog := rfl

@[simp] theorem finishWrite_crcAcc (s : State) : (finishWrite s).crcAcc = s.crcAcc := rfl
@[simp] theorem finishWrite_crcPoly (s : State) : (finishWrite s).crcPoly = s.crcPoly := rfl
@[simp] theorem finishWrite_addr (s : State) : (finishWrite s).addr = s.addr := rfl
@[simp] theorem finishWrite_err (s : State) :
    (finishWrite s).err = suppressBroadcast Config.pBcastSuppressMask s.xfer.a (readErr s) &&& errDefined := rfl
@[simp] theorem finishWrite_lastCrc (s : State) : (finishWrite s).lastCrc = s.lastCrc := rfl
@[simp] theorem finishWrite_lastPec (s : State) : (finishWrite s).lastPec = s.lastPec := rfl
@[simp] theorem finishWrite_resp (s : State) : (finishWrite s).resp = 0x0000#16 := rfl
@[simp] theorem finishWrite_busy (s : State) : (finishWrite s).busy = false := rfl
@[simp] theorem finishWrite_fbAcc (s : State) : (finishWrite s).fbAcc = s.fbAcc := rfl
@[simp] theorem finishWrite_phase (s : State) : (finishWrite s).phase = .idle := rfl
@[simp] theorem finishWrite_xfer (s : State) : (finishWrite s).xfer = s.xfer := rfl
@[simp] theorem finishWrite_host (s : State) : (finishWrite s).host = s.host := rfl
@[simp] theorem finishWrite_busIn (s : State) : (finishWrite s).busIn = s.busIn := rfl
@[simp] theorem finishWrite_busDraws (s : State) : (finishWrite s).busDraws = s.busDraws := rfl
@[simp] theorem finishWrite_busLog (s : State) : (finishWrite s).busLog = s.busLog := rfl

/-! The answer of a BusRead: three fields of the transfer, PHASE and the bus log; nothing else. -/

@[simp] theorem receiveByte_crcAcc (b : Byte) (s : State) : (receiveByte b s).crcAcc = s.crcAcc := by
  unfold receiveByte; split <;> rfl
@[simp] theorem receiveByte_crcPoly (b : Byte) (s : State) : (receiveByte b s).crcPoly = s.crcPoly := by
  unfold receiveByte; split <;> rfl
@[simp] theorem receiveByte_addr (b : Byte) (s : State) : (receiveByte b s).addr = s.addr := by
  unfold receiveByte; split <;> rfl
@[simp] theorem receiveByte_err (b : Byte) (s : State) : (receiveByte b s).err = s.err := by
  unfold receiveByte; split <;> rfl
@[simp] theorem receiveByte_lastCrc (b : Byte) (s : State) : (receiveByte b s).lastCrc = s.lastCrc := by
  unfold receiveByte; split <;> rfl
@[simp] theorem receiveByte_lastPec (b : Byte) (s : State) : (receiveByte b s).lastPec = s.lastPec := by
  unfold receiveByte; split <;> rfl
@[simp] theorem receiveByte_resp (b : Byte) (s : State) : (receiveByte b s).resp = s.resp := by
  unfold receiveByte; split <;> rfl
@[simp] theorem receiveByte_busy (b : Byte) (s : State) : (receiveByte b s).busy = s.busy := by
  unfold receiveByte; split <;> rfl
@[simp] theorem receiveByte_fbAcc (b : Byte) (s : State) : (receiveByte b s).fbAcc = s.fbAcc := by
  unfold receiveByte; split <;> rfl
@[simp] theorem receiveByte_host (b : Byte) (s : State) : (receiveByte b s).host = s.host := by
  unfold receiveByte; split <;> rfl
@[simp] theorem receiveByte_busIn (b : Byte) (s : State) : (receiveByte b s).busIn = s.busIn := by
  unfold receiveByte; split <;> rfl
@[simp] theorem receiveByte_busDraws (b : Byte) (s : State) : (receiveByte b s).busDraws = s.busDraws := by
  unfold receiveByte; split <;> rfl

/-- The answer that brings the low byte. -/
theorem receiveByte_lo {b : Byte} {s : State} (h : s.xfer.awaits = .lo) :
    receiveByte b s = { s with xfer := { s.xfer with lo := b, awaits := .hi }, phase := s.phase, busLog := s.busLog ++ [.answer b, .busRead] } := by
  simp [receiveByte, h, emit]

/-- The answer that brings the high byte. -/
theorem receiveByte_hi {b : Byte} {s : State} (h : s.xfer.awaits = .hi) :
    receiveByte b s = { s with xfer := { s.xfer with hi := b, awaits := .pec }, phase := s.phase, busLog := s.busLog ++ [.answer b, .busRead] } := by
  simp [receiveByte, h, emit]

/-- The answer that brings the PEC byte. -/
theorem receiveByte_pec {b : Byte} {s : State} (h : s.xfer.awaits = .pec) :
    receiveByte b s = { s with xfer := { s.xfer with pec := b }, phase := .done, busLog := s.busLog ++ [.answer b] } := by
  simp [receiveByte, h, emit]

end Sys2Proof.Machine
end

