-- ==== Sys2Proof/Laws/Bus.lean ====
section
/-! SUPPORT. Taking a move of the bus agent changes the two bus inputs and nothing else. -/

namespace Sys2Proof.Machine

/-- Everything a move can be: the next scripted one, or a free draw when none is left. -/
theorem takeMove_cases (s : State) :
    (∃ m rest, s.busIn = m :: rest ∧ takeMove s = (m, { s with busIn := rest })) ∨
      (s.busIn = [] ∧ takeMove s = (Config.busDraw s.busDraws, { s with busDraws := s.busDraws + 1 })) := by
  unfold takeMove
  cases h : s.busIn with
  | nil => exact .inr ⟨rfl, rfl⟩
  | cons m rest => exact .inl ⟨m, rest, rfl, rfl⟩

/-- The state with a move taken, as an update of the bus inputs alone. -/
theorem takeMove_state (s : State) :
    ∃ bi bd, (takeMove s).2 = { s with busIn := bi, busDraws := bd } := by
  rcases takeMove_cases s with ⟨m, rest, -, h⟩ | ⟨-, h⟩
  · exact ⟨rest, s.busDraws, by rw [h]⟩
  · exact ⟨s.busIn, s.busDraws + 1, by rw [h]⟩

/-- The same for a move whose result is named. -/
theorem takeMove_eq {s s1 : State} {m : Option Byte} (h : takeMove s = (m, s1)) :
    ∃ bi bd, s1 = { s with busIn := bi, busDraws := bd } := by
  have := takeMove_state s
  rwa [h] at this

/-- A move does not depend on anything but the bus inputs, and leaves everything else as an update of them leaves it. -/
theorem takeMove_congr {s u : State} (hi : u.busIn = s.busIn) (hd : u.busDraws = s.busDraws) :
    takeMove u = ((takeMove s).1, { u with busIn := (takeMove s).2.busIn, busDraws := (takeMove s).2.busDraws }) := by
  rcases takeMove_cases s with ⟨m, rest, hs, h⟩ | ⟨hs, h⟩
  · rw [h]; simp [takeMove, hi, hs, ← hd]
  · rw [h]; simp [takeMove, hi, hs, hd]

/-- A move taken from a state can be taken from any other with the same bus inputs. -/
theorem takeMove_transport {s s1 u : State} {m : Option Byte} (h : takeMove s = (m, s1)) (hi : u.busIn = s.busIn)
    (hd : u.busDraws = s.busDraws) :
    takeMove u = (m, { u with busIn := s1.busIn, busDraws := s1.busDraws }) := by
  rw [takeMove_congr hi hd, h]

/-- A state after a move is the state before it with other bus inputs. -/
theorem takeMove_eta {s s1 : State} {m : Option Byte} (h : takeMove s = (m, s1)) :
    s1 = { s with busIn := s1.busIn, busDraws := s1.busDraws } := by
  obtain ⟨bi, bd, rfl⟩ := takeMove_eq h
  rfl

/-- A scripted move is taken from the front of the script. -/
theorem takeMove_scripted {s : State} {m : Option Byte} {rest : List (Option Byte)} (h : s.busIn = m :: rest) :
    takeMove s = (m, { s with busIn := rest }) := by
  simp [takeMove, h]

end Sys2Proof.Machine
end

