-- ==== Sys2Proof/Laws/Checksum.lean ====
section
/-! SUPPORT. The checksum functions, one lemma each. -/

namespace Sys2Proof.Machine

/-- The zero accumulator stays zero through a round. -/
@[simp] theorem crcRound_zero (p : Byte) : crcRound p 0x00#8 = 0x00#8 := by
  simp [crcRound]

/-- The zero accumulator stays zero through every round. -/
@[simp] theorem crcRounds_zero (p : Byte) (n : Nat) : crcRounds p n 0x00#8 = 0x00#8 := by
  induction n with
  | zero => rfl
  | succ n ih => simpa [crcRounds] using ih

/-- The rounds as an iteration of one round. -/
theorem crcRounds_eq_iterate (p : Byte) (n : Nat) (a : Byte) : crcRounds p n a = (crcRound p)^[n] a := by
  induction n generalizing a with
  | zero => rfl
  | succ n ih => simp only [crcRounds, ih, Function.iterate_succ_apply]

/-- The step sees the accumulator and the byte only through their XOR. -/
theorem crc8Step_eq_rounds_xor (p acc b : Byte) : crc8Step p acc b = crcRounds p 8 (acc ^^^ b) := rfl

/-- The empty sequence. -/
@[simp] theorem crc8_nil (p : Byte) : crc8 p [] = 0x00#8 := rfl

/-- One more byte at the end. -/
theorem crc8_append_one (p : Byte) (bytes : List Byte) (b : Byte) :
    crc8 p (bytes ++ [b]) = crc8Step p (crc8 p bytes) b := by
  simp [crc8]

end Sys2Proof.Machine
end

