-- ==== Sys2Proof/Laws/Frame.lean ====
section
/-! SUPPORT. The frame builder's steps: everything one step can do, and what any number of them keeps. -/

namespace Sys2Proof.Machine

/-- Everything a step of the frame builder can do. -/
theorem frameStep_cases (s : State) :
    (s.phase = .idle ∧ frameStep s = .waits s) ∨
    (∃ s1, s.phase = .wPhase ∧ takeMove s = (none, s1) ∧ frameStep s = .waits s1) ∨
    (∃ st s1, s.phase = .wPhase ∧ takeMove s = (some st, s1) ∧
      ((s.xfer.kind = .read ∧ frameStep s = .waits (endWritePhase st s1)) ∨
        (s.xfer.kind = .write ∧ frameStep s = .moved (endWritePhase st s1)))) ∨
    (s.phase = .turn ∧ frameStep s = .moved (startReadPhase s)) ∨
    (∃ s1, s.phase = .rPhase ∧ takeMove s = (none, s1) ∧ frameStep s = .waits s1) ∨
    (∃ b s1, s.phase = .rPhase ∧ takeMove s = (some b, s1) ∧ frameStep s = .moved (receiveByte b s1)) ∨
    (s.phase = .done ∧ s.xfer.kind = .read ∧ frameStep s = .moved (finishRead s)) ∨
    (s.phase = .done ∧ s.xfer.kind = .write ∧ frameStep s = .moved (finishWrite s)) := by
  cases hp : s.phase with
  | idle => left; simp [frameStep, hp]
  | turn => iterate 3 right
            left; simp [frameStep, hp]
  | wPhase =>
    rcases hm : takeMove s with ⟨m, s1⟩
    cases m with
    | none => right; left; exact ⟨s1, rfl, rfl, by simp [frameStep, hp, hm]⟩
    | some st =>
      right; right; left
      cases hk : s.xfer.kind with
      | read => exact ⟨st, s1, rfl, rfl, .inl ⟨rfl, by simp [frameStep, hp, hm, hk]⟩⟩
      | write => exact ⟨st, s1, rfl, rfl, .inr ⟨rfl, by simp [frameStep, hp, hm, hk]⟩⟩
  | rPhase =>
    rcases hm : takeMove s with ⟨m, s1⟩
    cases m with
    | none => iterate 4 right
              left; exact ⟨s1, rfl, rfl, by simp [frameStep, hp, hm]⟩
    | some b => iterate 5 right
                left; exact ⟨b, s1, rfl, rfl, by simp [frameStep, hp, hm]⟩
  | done =>
    cases hk : s.xfer.kind with
    | read => iterate 6 right
              left; exact ⟨rfl, rfl, by simp [frameStep, hp, hk]⟩
    | write => iterate 7 right
               exact ⟨rfl, rfl, by simp [frameStep, hp, hk]⟩

/-- Waiting for BusEnd in FRAME.READ, an answer comes: the machine's step ends in TURN. -/
theorem frameStep_status_read {s s1 : State} {st : Byte} (hp : s.phase = .wPhase) (hk : s.xfer.kind = .read)
    (m : takeMove s = (some st, s1)) : frameStep s = .waits (endWritePhase st s1) := by
  simp [frameStep, hp, hk, m]

/-- Waiting for BusEnd in FRAME.WRITE, an answer comes. -/
theorem frameStep_status_write {s s1 : State} {st : Byte} (hp : s.phase = .wPhase) (hk : s.xfer.kind = .write)
    (m : takeMove s = (some st, s1)) : frameStep s = .moved (endWritePhase st s1) := by
  simp [frameStep, hp, hk, m]

/-- Waiting for BusRead, an answer comes. -/
theorem frameStep_byte {s s1 : State} {b : Byte} (hp : s.phase = .rPhase) (m : takeMove s = (some b, s1)) :
    frameStep s = .moved (receiveByte b s1) := by
  simp [frameStep, hp, m]

/-- Waiting for the bus, none comes. -/
theorem frameStep_silent {s s1 : State} (hp : s.phase = .wPhase ∨ s.phase = .rPhase) (m : takeMove s = (none, s1)) :
    frameStep s = .waits s1 := by
  rcases hp with hp | hp <;> simp [frameStep, hp, m]

/-- TURN ends. -/
theorem frameStep_turn {s : State} (hp : s.phase = .turn) : frameStep s = .moved (startReadPhase s) := by
  simp [frameStep, hp]

/-- FRAME.READ is DONE. -/
theorem frameStep_done_read {s : State} (hp : s.phase = .done) (hk : s.xfer.kind = .read) :
    frameStep s = .moved (finishRead s) := by
  simp [frameStep, hp, hk]

/-- FRAME.WRITE is DONE. -/
theorem frameStep_done_write {s : State} (hp : s.phase = .done) (hk : s.xfer.kind = .write) :
    frameStep s = .moved (finishWrite s) := by
  simp [frameStep, hp, hk]

/-- No frame command is in progress. -/
theorem frameStep_idle {s : State} (hp : s.phase = .idle) : frameStep s = .waits s := by
  simp [frameStep, hp]

/-- A property that each kind of step keeps holds after any number of them. -/
theorem frameRun_keeps {P : State → Prop}
    (moved : ∀ s t, frameStep s = .moved t → P s → P t) (waits : ∀ s t, frameStep s = .waits t → P s → P t) :
    ∀ n s, P s → P (frameRun n s)
  | 0, _, h => h
  | n + 1, s, h => by
    unfold frameRun
    cases hf : frameStep s with
    | moved t => exact frameRun_keeps moved waits n t (moved s t hf h)
    | waits t => exact waits s t hf h

/-- One step forward of a run. -/
theorem frameRun_moved {s t : State} (n : Nat) (h : frameStep s = .moved t) : frameRun (n + 1) s = frameRun n t := by
  simp [frameRun, h]

/-- A run ends where a step waits. -/
theorem frameRun_waits {s t : State} (n : Nat) (h : frameStep s = .waits t) : frameRun (n + 1) s = t := by
  simp [frameRun, h]

/-- What no step of the frame builder writes: CRC_ACC, CRC_POLY, ADDR, the host's events, and the kind, address and command
of the transfer. -/
structure SameOutsideFrame (s t : State) : Prop where
  crcAcc : t.crcAcc = s.crcAcc
  crcPoly : t.crcPoly = s.crcPoly
  addr : t.addr = s.addr
  host : t.host = s.host
  kind : t.xfer.kind = s.xfer.kind
  a : t.xfer.a = s.xfer.a
  c : t.xfer.c = s.xfer.c

theorem SameOutsideFrame.trans {s t u : State} (h : SameOutsideFrame s t) (k : SameOutsideFrame t u) :
    SameOutsideFrame s u :=
  ⟨k.1.trans h.1, k.2.trans h.2, k.3.trans h.3, k.4.trans h.4, k.5.trans h.5, k.6.trans h.6, k.7.trans h.7⟩

/-- Taking a bus move is outside the frame builder's registers. -/
theorem takeMove_same {s s1 : State} {m : Option Byte} (h : takeMove s = (m, s1)) : SameOutsideFrame s s1 := by
  obtain ⟨bi, bd, rfl⟩ := takeMove_eq h
  constructor <;> rfl

/-- The answer of a BusRead writes the transfer's bytes, PHASE and the bus log. -/
theorem receiveByte_same (b : Byte) (s : State) : SameOutsideFrame s (receiveByte b s) := by
  unfold receiveByte
  split <;> constructor <;> rfl

/-- A step of the frame builder keeps what is outside it. -/
theorem frameStep_same {s t : State} (h : frameStep s = .moved t ∨ frameStep s = .waits t) : SameOutsideFrame s t := by
  have refl : ∀ u : State, SameOutsideFrame u u := fun u => by constructor <;> rfl
  rcases frameStep_cases s with ⟨-, e⟩ | ⟨s1, -, m, e⟩ | ⟨st, s1, -, m, ⟨-, e⟩ | ⟨-, e⟩⟩ | ⟨-, e⟩ | ⟨s1, -, m, e⟩ |
      ⟨b, s1, -, m, e⟩ | ⟨-, -, e⟩ | ⟨-, -, e⟩ <;> rw [e] at h <;> rcases h with h | h <;> cases h
  · exact refl s
  · exact takeMove_same m
  · exact (takeMove_same m).trans (by constructor <;> rfl)
  · exact (takeMove_same m).trans (by constructor <;> rfl)
  · constructor <;> rfl
  · exact takeMove_same m
  · exact (takeMove_same m).trans (receiveByte_same b s1)
  · constructor <;> rfl
  · constructor <;> rfl

/-- Going on with a frame command keeps what is outside the frame builder. -/
theorem goOn_same (s : State) : SameOutsideFrame s (goOn s) := by
  unfold goOn
  split
  · exact frameRun_keeps (P := SameOutsideFrame s) (fun _ _ h k => k.trans (frameStep_same (.inl h)))
      (fun _ _ h k => k.trans (frameStep_same (.inr h))) _ _ (by constructor <;> rfl)
  · constructor <;> rfl

/-- With no frame command in progress there is nothing to go on with. -/
theorem goOn_idle {s : State} (h : s.busy = false) : goOn s = s := by
  simp [goOn, h]

/-- With one in progress the frame builder steps until it waits. -/
theorem goOn_busy {s : State} (h : s.busy = true) : goOn s = frameRun frameSteps s := by
  simp [goOn, h]

end Sys2Proof.Machine
end

