-- ==== Sys2Proof/Laws/Commands.lean ====
section
/-! SUPPORT. Everything a command can do: one lemma per meaning for "it answers next t". -/

namespace Sys2Proof.Machine

/-- A command runs when BUSY = 0. -/
@[simp] theorem whenReady_ready {s : State} (h : s.busy = false) (run : State → Host.Outcome State Fault Refusal) :
    whenReady s run = run s := by
  simp [whenReady, h]

/-- A command that answers a next state was accepted with BUSY = 0. -/
theorem whenReady_next {s t : State} {run : State → Host.Outcome State Fault Refusal} (h : whenReady s run = .next t) :
    s.busy = false ∧ run s = .next t := by
  unfold whenReady at h
  split at h
  · cases h
  · exact ⟨Bool.eq_false_iff.mpr (by assumption), h⟩

theorem execCrcReset_next {s t : State} (h : execCrcReset s = .next t) :
    s.busy = false ∧ t = { s with crcAcc := 0x00#8, resp := 0x0000#16 } := by
  obtain ⟨hb, h⟩ := whenReady_next h
  cases h
  exact ⟨hb, rfl⟩

theorem execCrcUpdate_next {b : Byte} {s t : State} (h : execCrcUpdate b s = .next t) :
    s.busy = false ∧
      t = { s with crcAcc := crc8Step s.crcPoly s.crcAcc b, resp := zext16 (crc8Step s.crcPoly s.crcAcc b) } := by
  obtain ⟨hb, h⟩ := whenReady_next h
  cases h
  exact ⟨hb, rfl⟩

theorem execFrameRead_next {c : Byte} {s t : State} (h : execFrameRead c s = .next t) :
    s.busy = false ∧ t = goOn (acceptRead c s) := by
  obtain ⟨hb, h⟩ := whenReady_next h
  cases h
  exact ⟨hb, rfl⟩

theorem execFrameWrite_next {c : Byte} {v : Value} {s t : State} (h : execFrameWrite c v s = .next t) :
    s.busy = false ∧ t = goOn (acceptWrite c v s) := by
  obtain ⟨hb, h⟩ := whenReady_next h
  cases h
  exact ⟨hb, rfl⟩

theorem execRegRead_next {i : Byte} {s t : State} (h : execRegRead i s = .next t) :
    s.busy = false ∧ ∃ v, regValue i s = some v ∧ t = { s with resp := v } := by
  obtain ⟨hb, h⟩ := whenReady_next h
  cases hv : regValue i s with
  | none => simp [hv] at h
  | some v => simp only [hv] at h; cases h; exact ⟨hb, v, rfl, rfl⟩

theorem execRegWrite_next {i : Byte} {v : Value} {s t : State} (h : execRegWrite i v s = .next t) :
    s.busy = false ∧ ∃ s1, regStore i v s = some s1 ∧ t = { s1 with resp := 0x0000#16 } := by
  obtain ⟨hb, h⟩ := whenReady_next h
  cases hv : regStore i v s with
  | none => simp [hv] at h
  | some s1 => simp only [hv] at h; cases h; exact ⟨hb, s1, rfl, rfl⟩

/-- Everything a register write can do: nothing, ADDR, or ERR. -/
theorem regStore_cases {i : Byte} {v : Value} {s t : State} (h : regStore i v s = some t) :
    t = s ∨ (i = 0x02#8 ∧ t = { s with addr := v.extractLsb' 0 7 }) ∨
      (i = 0x03#8 ∧ t = writeErr ((v.extractLsb' 0 7).setWidth 8) s) := by
  have key : ∀ n : Nat, n < 256 → i.toNat = n → i = BitVec.ofNat 8 n := fun n _ e => by
    apply BitVec.eq_of_toNat_eq; rw [BitVec.toNat_ofNat]; omega
  unfold regStore at h
  split at h <;> rename_i e <;> cases h
  · exact .inl rfl
  · exact .inl rfl
  · exact .inr (.inl ⟨key 2 (by omega) e, rfl⟩)
  · exact .inr (.inr ⟨key 3 (by omega) e, rfl⟩)
  · exact .inl rfl
  · exact .inl rfl

end Sys2Proof.Machine
end

