-- ==== Sys2Proof/Laws/Decode.lean ====
section
/-! SUPPORT. The fields of a packed word, and the decoder in terms of the fields. -/

namespace Sys2Proof

/-- The bits of a packed word: OP, then RSV, then B, then V, from bit 0 up (R70). -/
theorem getLsbD_packWord (v : Value) (b : Byte) (op : BitVec 4) (i : Nat) :
    (packWord v b op).getLsbD i =
      if i < 4 then op.getLsbD i else if i < 8 then false else if i < 16 then b.getLsbD (i - 8)
      else v.getLsbD (i - 16) := by
  have e : (packWord v b op).getLsbD i = BitVec.getLsbD (w := 16 + 8 + 4 + 4) (v ++ b ++ 0#4 ++ op) i := rfl
  rw [e, BitVec.getLsbD_append, BitVec.getLsbD_append, BitVec.getLsbD_append]
  by_cases h4 : i < 4
  · simp [h4]
  by_cases h8 : i < 8
  · simp [h4, h8, show i - 4 < 4 by omega]
  by_cases h16 : i < 16
  · simp [h4, h8, h16, show ¬ i - 4 < 4 by omega, show i - 4 - 4 = i - 8 by omega, show i - 8 < 8 by omega]
  · simp [h4, h8, h16, show ¬ i - 4 < 4 by omega, show ¬ i - 4 - 4 < 8 by omega, show i - 4 - 4 - 8 = i - 16 by omega]

/-- A word of a value, a byte and a low byte whose bits are RSV 0000 and an OP. -/
theorem append_eq_packWord (v : Value) (b : Byte) (op : BitVec 4) :
    (v ++ b ++ (0#4 ++ op : BitVec 8) : CommandWord) = packWord v b op := by
  apply BitVec.eq_of_getLsbD_eq
  intro i _
  rw [getLsbD_packWord]
  have e : (v ++ b ++ (0#4 ++ op : BitVec 8) : CommandWord).getLsbD i =
      BitVec.getLsbD (w := 16 + 8 + (4 + 4)) (v ++ b ++ (0#4 ++ op)) i := rfl
  rw [e, BitVec.getLsbD_append, BitVec.getLsbD_append, BitVec.getLsbD_append]
  by_cases h4 : i < 4
  · simp [h4, show i < 8 by omega]
  by_cases h8 : i < 8
  · simp [h4, h8]
  by_cases h16 : i < 16
  · simp [h4, h8, h16, show i - 8 < 8 by omega]
  · simp [h4, h8, h16, show ¬ i - 8 < 8 by omega, show i - 8 - 8 = i - 16 by omega]

@[simp] theorem fieldOp_packWord (v : Value) (b : Byte) (op : BitVec 4) : fieldOp (packWord v b op) = op := by
  apply BitVec.eq_of_getLsbD_eq
  intro i hi
  simp [fieldOp, getLsbD_packWord, hi]

@[simp] theorem fieldRsv_packWord (v : Value) (b : Byte) (op : BitVec 4) : fieldRsv (packWord v b op) = 0#4 := by
  apply BitVec.eq_of_getLsbD_eq
  intro i hi
  simp [fieldRsv, getLsbD_packWord, show 4 + i < 8 by omega]

@[simp] theorem fieldB_packWord (v : Value) (b : Byte) (op : BitVec 4) : fieldB (packWord v b op) = b := by
  apply BitVec.eq_of_getLsbD_eq
  intro i hi
  simp [fieldB, getLsbD_packWord, hi, show ¬ 8 + i < 4 by omega, show 8 + i < 16 by omega]

@[simp] theorem fieldV_packWord (v : Value) (b : Byte) (op : BitVec 4) : fieldV (packWord v b op) = v := by
  apply BitVec.eq_of_getLsbD_eq
  intro i hi
  simp [fieldV, getLsbD_packWord, hi, show ¬ 16 + i < 4 by omega, show ¬ 16 + i < 8 by omega]

/-- Decoding a packed word is reading its operation with its operands. -/
theorem decode_packWord (v : Value) (b : Byte) (op : BitVec 4) : decode (packWord v b op) = decodeOp op b v := by
  simp [decode]

/-- A word that decodes to a command has RSV 0000, and its operation gives the command. -/
theorem decode_command_fields {w : CommandWord} {i : Instr} (h : decode w = .command i) :
    fieldRsv w = 0#4 ∧ decodeOp (fieldOp w) (fieldB w) (fieldV w) = .command i := by
  unfold decode at h
  split at h
  · exact ⟨by assumption, h⟩
  · cases h

/-- Every operation that decodes to a command is one of the six, with a defined index where it has one. -/
theorem decodeOp_cases {op : BitVec 4} {b : Byte} {v : Value} {i : Instr} (h : decodeOp op b v = .command i) :
    (op = 1#4 ∧ i = .crcReset) ∨ (op = 2#4 ∧ i = .crcUpdate b) ∨ (op = 3#4 ∧ i = .frameRead b) ∨
      (op = 4#4 ∧ i = .frameWrite b v) ∨ (op = 5#4 ∧ regIndexDefined b = true ∧ i = .regRead b) ∨
      (op = 6#4 ∧ regIndexDefined b = true ∧ i = .regWrite b v) := by
  have key : ∀ n : Nat, n < 16 → op.toNat = n → op = BitVec.ofNat 4 n := fun n _ e => by
    apply BitVec.eq_of_toNat_eq; rw [BitVec.toNat_ofNat]; omega
  unfold decodeOp at h
  split at h <;> rename_i e
  · cases h; exact .inl ⟨key 1 (by omega) e, rfl⟩
  · cases h; exact .inr (.inl ⟨key 2 (by omega) e, rfl⟩)
  · cases h; exact .inr (.inr (.inl ⟨key 3 (by omega) e, rfl⟩))
  · cases h; exact .inr (.inr (.inr (.inl ⟨key 4 (by omega) e, rfl⟩)))
  · unfold decodeRegAccess at h
    split at h <;> cases h
    exact .inr (.inr (.inr (.inr (.inl ⟨key 5 (by omega) e, by assumption, rfl⟩))))
  · unfold decodeRegAccess at h
    split at h <;> cases h
    exact .inr (.inr (.inr (.inr (.inr ⟨key 6 (by omega) e, by assumption, rfl⟩))))
  · cases h

end Sys2Proof
end

