-- ==== Sys2Proof/Laws/PerInstr.lean ====
section
/-! SUPPORT. Statements about every command, one lemma per constructor. -/

namespace Sys2Proof.Laws

/-- EncodedFields: a command's word has its operation in OP and 0000 in RSV (R70 to R72). -/
def EncodedFields.Statement (i : Instr) : Prop := fieldOp (encode i) = i.opcode ∧ fieldRsv (encode i) = 0#4

theorem EncodedFields.crcReset : EncodedFields.Statement .crcReset := ⟨fieldOp_packWord _ _ _, fieldRsv_packWord _ _ _⟩

theorem EncodedFields.crcUpdate (b : Byte) : EncodedFields.Statement (.crcUpdate b) :=
  ⟨fieldOp_packWord _ _ _, fieldRsv_packWord _ _ _⟩

theorem EncodedFields.frameRead (c : Byte) : EncodedFields.Statement (.frameRead c) :=
  ⟨fieldOp_packWord _ _ _, fieldRsv_packWord _ _ _⟩

theorem EncodedFields.frameWrite (c : Byte) (v : Value) : EncodedFields.Statement (.frameWrite c v) :=
  ⟨fieldOp_packWord _ _ _, fieldRsv_packWord _ _ _⟩

theorem EncodedFields.regRead (i : Byte) : EncodedFields.Statement (.regRead i) :=
  ⟨fieldOp_packWord _ _ _, fieldRsv_packWord _ _ _⟩

theorem EncodedFields.regWrite (i : Byte) (v : Value) : EncodedFields.Statement (.regWrite i v) :=
  ⟨fieldOp_packWord _ _ _, fieldRsv_packWord _ _ _⟩

end Sys2Proof.Laws
end

