-- ==== Sys2Proof/Laws/Step.lean ====
section
/-! SUPPORT. Everything a step can do. -/

namespace Sys2Proof.Machine

/-- Everything fetching can find. -/
theorem fetch_cases (s : State) :
    (∃ rest, s.host = .reset :: rest ∧ fetch s = .quiet (resetBlock { s with host := rest })) ∨
    (∃ rest, s.host = .pause :: rest ∧ fetch s = .quiet (goOn { s with host := rest })) ∨
    (∃ w rest, s.host = .word w :: rest ∧ s.busy = true ∧ fetch s = .quiet (goOn s)) ∨
    (∃ w rest i, s.host = .word w :: rest ∧ s.busy = false ∧ decode w = .command i ∧
      fetch s = .command i { s with host := rest }) ∨
    (∃ w rest r, s.host = .word w :: rest ∧ s.busy = false ∧ decode w = .refused r ∧ fetch s = .refused (refusalOf r)) ∨
    (s.host = [] ∧ fetch s = .quiet (goOn s)) := by
  cases hh : s.host with
  | nil => iterate 5 right
           exact ⟨rfl, by simp [fetch, hh]⟩
  | cons e rest =>
    cases e with
    | reset => left; exact ⟨rest, rfl, by simp [fetch, hh]⟩
    | pause => right; left; exact ⟨rest, rfl, by simp [fetch, hh]⟩
    | word w =>
      cases hb : s.busy with
      | true => right; right; left; exact ⟨w, rest, rfl, rfl, by simp [fetch, hh, hb]⟩
      | false =>
        cases hd : decode w with
        | command i => iterate 3 right
                       left; exact ⟨w, rest, i, rfl, rfl, hd, by simp [fetch, hh, hb, hd]⟩
        | refused r => iterate 4 right
                       left; exact ⟨w, rest, r, rfl, rfl, hd, by simp [fetch, hh, hb, hd]⟩

/-- Everything a step that answers a next state has done. -/
theorem step_next_cases {s t : State} (h : step s = .next t) :
    (∃ rest, s.host = .reset :: rest ∧ t = resetBlock { s with host := rest }) ∨
    (∃ rest, s.host = .pause :: rest ∧ t = goOn { s with host := rest }) ∨
    (∃ w rest, s.host = .word w :: rest ∧ s.busy = true ∧ t = goOn s) ∨
    (∃ w rest i, s.host = .word w :: rest ∧ s.busy = false ∧ decode w = .command i ∧
      exec i { s with host := rest } = .next t) ∨
    (s.host = [] ∧ t = goOn s) := by
  unfold step at h
  rcases fetch_cases s with ⟨r, hh, e⟩ | ⟨r, hh, e⟩ | ⟨w, r, hh, hb, e⟩ | ⟨w, r, i, hh, hb, hd, e⟩ | ⟨w, r, x, _, _, _, e⟩ |
      ⟨hh, e⟩ <;> simp only [e] at h
  · cases h; exact .inl ⟨r, hh, rfl⟩
  · cases h; exact .inr (.inl ⟨r, hh, rfl⟩)
  · cases h; exact .inr (.inr (.inl ⟨w, r, hh, hb, rfl⟩))
  · exact .inr (.inr (.inr (.inl ⟨w, r, i, hh, hb, hd, h⟩)))
  · cases h
  · cases h; exact .inr (.inr (.inr (.inr ⟨hh, rfl⟩)))

/-- The word placed by `withFetchWord` is what the next step takes, from any state. -/
theorem fetch_withFetchWord (s : State) (nbits w : Nat) :
    fetch (s.withFetchWord nbits w) =
      match decode (tableWord nbits w) with
      | .command i => .command i (becomeIdle s)
      | .refused r => .refused (refusalOf r) := by
  cases hd : decode (tableWord nbits w) with
  | command i => simp [fetch, State.withFetchWord, presentWord, hd]; rfl
  | refused r => simp [fetch, State.withFetchWord, presentWord, hd]

end Sys2Proof.Machine
end

