-- ==== Sys2Proof/Laws/Runs.lean ====
section
/-! SUPPORT. Runs that take no word: what a step does while BUSY = 1, and the bus agent's moves in a row. -/

namespace Sys2Proof.Machine

/-- Quiet steps bring in no reset. -/
theorem afterQuiet_noReset {events : List HostEvent} (h : ∀ e ∈ events, e ≠ .reset) (n : Nat) :
    ∀ e ∈ afterQuiet n events, e ≠ .reset := by
  fun_induction afterQuiet n events with
  | case3 n rest ih => exact ih fun e he => h e (List.mem_cons_of_mem _ he)
  | _ => exact h

/-- Quiet steps one by one. -/
theorem afterQuiet_succ (n : Nat) (events : List HostEvent) :
    afterQuiet (n + 1) events = afterQuiet n (afterQuiet 1 events) := by
  cases events with
  | nil => cases n <;> rfl
  | cons e rest => cases e <;> cases n <;> rfl

/-- Quiet steps take no word. -/
@[simp] theorem hostWords_afterQuiet (n : Nat) (events : List HostEvent) :
    hostWords (afterQuiet n events) = hostWords events := by
  fun_induction afterQuiet n events with
  | case3 n rest ih => simpa [hostWords] using ih
  | _ => rfl

/-- The frame builder does not look at the host's events. -/
theorem frameStep_host (s : State) (events : List HostEvent) :
    frameStep { s with host := events } =
      match frameStep s with
      | .moved t => .moved { t with host := events }
      | .waits t => .waits { t with host := events } := by
  let u : State := { s with host := events }
  have m : ∀ {a : Option Byte} {s1 : State}, takeMove s = (a, s1) → takeMove u = (a, { s1 with host := events }) := by
    intro a s1 h
    refine (takeMove_transport (u := u) h rfl rfl).trans ?_
    obtain ⟨bi, bd, rfl⟩ := takeMove_eq h
    rfl
  rcases frameStep_cases s with ⟨hp, e⟩ | ⟨s1, hp, h, e⟩ | ⟨st, s1, hp, h, ⟨hk, e⟩ | ⟨hk, e⟩⟩ | ⟨hp, e⟩ | ⟨s1, hp, h, e⟩ |
      ⟨b, s1, hp, h, e⟩ | ⟨hp, hk, e⟩ | ⟨hp, hk, e⟩ <;> rw [e]
  · exact frameStep_idle (s := u) hp
  · exact frameStep_silent (s := u) (.inl hp) (m h)
  · exact frameStep_status_read (s := u) hp hk (m h)
  · exact frameStep_status_write (s := u) hp hk (m h)
  · exact frameStep_turn (s := u) hp
  · exact frameStep_silent (s := u) (.inr hp) (m h)
  · refine (frameStep_byte (s := u) hp (m h)).trans ?_
    cases ha : s1.xfer.awaits <;> simp [receiveByte, ha, emit]
  · exact frameStep_done_read (s := u) hp hk
  · exact frameStep_done_write (s := u) hp hk

/-- Nor does any number of its steps. -/
theorem frameRun_host (n : Nat) (s : State) (events : List HostEvent) :
    frameRun n { s with host := events } = { frameRun n s with host := events } := by
  induction n generalizing s with
  | zero => rfl
  | succ n ih =>
    unfold frameRun
    rw [frameStep_host]
    cases frameStep s with
    | moved t => exact ih t
    | waits t => rfl

theorem goOn_host (s : State) (events : List HostEvent) :
    goOn { s with host := events } = { goOn s with host := events } := by
  unfold goOn
  split
  · exact frameRun_host _ s events
  · rfl

/-- A step with BUSY = 1 and no reset next only goes on with the frame command; a pause is taken, a word is not. -/
theorem step_busy {s : State} (hb : s.busy = true) (h : ¬ ResetNext s) :
    step s = .next { goOn s with host := afterQuiet 1 s.host } := by
  have same : { goOn s with host := s.host } = goOn s := by rw [← goOn_host]
  cases hh : s.host with
  | nil => simp only [step, fetch, hh]; rw [← same, hh]; rfl
  | cons e rest =>
    cases e with
    | reset => exact absurd (by simp [ResetNext, hh]) h
    | pause => simp only [step, fetch, hh]; rw [goOn_host]; rfl
    | word w => simp only [step, fetch, hh, hb, if_true]; rw [← same, hh]; rfl

/-- Moves taken one after another. -/
theorem takeMoves_cons {m : Option Byte} {ms : List (Option Byte)} {s t : State} :
    takeMoves (m :: ms) s = some t ↔ ∃ s1, takeMove s = (m, s1) ∧ takeMoves ms s1 = some t := by
  simp only [takeMoves]
  constructor
  · intro h
    split at h
    · exact ⟨(takeMove s).2, by rename_i e; rw [← e], h⟩
    · cases h
  · rintro ⟨s1, e, h⟩
    rw [e]
    simpa using h

/-- A state after moves is the state before them with other bus inputs. -/
theorem takeMoves_eta {ms : List (Option Byte)} {s t : State} (h : takeMoves ms s = some t) :
    t = { s with busIn := t.busIn, busDraws := t.busDraws } := by
  induction ms generalizing s with
  | nil => cases h; rfl
  | cons m ms ih =>
    obtain ⟨s1, e, h⟩ := takeMoves_cons.mp h
    rw [ih h, takeMove_eta e]

/-- Moves taken from a state can be taken from any other with the same bus inputs. -/
theorem takeMoves_transport {ms : List (Option Byte)} {s t u : State} (h : takeMoves ms s = some t)
    (hi : u.busIn = s.busIn) (hd : u.busDraws = s.busDraws) :
    takeMoves ms u = some { u with busIn := t.busIn, busDraws := t.busDraws } := by
  induction ms generalizing s u with
  | nil => cases h; simp [takeMoves, ← hi, ← hd]
  | cons m ms ih =>
    obtain ⟨s1, e, h⟩ := takeMoves_cons.mp h
    exact takeMoves_cons.mpr ⟨_, takeMove_transport e hi hd, ih h rfl rfl⟩

end Sys2Proof.Machine
end

