-- ==== Sys2Proof/Tests/Slice0.lean ====
section
/-! SUPPORT. The model's own tests, their expected results from the spec's tables (95_test_vectors.md, 30_encoding.md R83),
and for every statement with hypotheses a witness that meets them. -/

namespace Sys2Proof.Tests

open Sys2Proof Sys2Proof.Machine

/-! Helpers. -/

/-- A component of the next state, if there is one. -/
def answered {α : Type} (f : State → α) : Host.Outcome State Fault Refusal → Option α
  | .next t => some (f t)
  | .fault _ => none
  | .refused _ => none

/-- The refusal, if that is the outcome. -/
def refusal : Host.Outcome State Fault Refusal → Option Refusal
  | .next _ => none
  | .fault _ => none
  | .refused r => some r

/-- A state with BUSY = 0, an address, an ERR, LAST_PEC = 0x33 and scripted bus moves. -/
def ready (addr : BusAddr) (err : Byte) (moves : List (Option Byte)) : State :=
  { State.reset with addr := addr, err := err, lastPec := 0x33, busIn := moves }

/-- A FRAME.READ of 0x07 that waits for its BusEnd, with the host's events and the bus agent's moves. -/
def waiting (host : List HostEvent) (moves : List (Option Byte)) : State :=
  { acceptRead 0x07 State.reset with host := host, busIn := moves }

/-- ERR, LAST_CRC, LAST_PEC and RESP: the columns of the frame vectors. -/
def columns (t : State) : Byte × Byte × Byte × Value := (t.err, t.lastCrc, t.lastPec, t.resp)

/-! Well-formedness: one ill-formed term for each check (R78). -/

theorem test_wellFormed_refuses_reserved_index :
    Instr.wellFormed (.regRead 0x06) = false ∧ Instr.wellFormed (.regWrite 0xFF 0x0000) = false ∧
      Instr.wellFormed (.regRead 0x05) = true ∧ Instr.wellFormed (.regWrite 0x05 0xFFFF) = true := by decide

/-! Decoding, the words bit by bit: V, B, RSV, OP (R70, R75). -/

/-- E1, and E2 for the ignored fields. -/
theorem test_decode_crcReset :
    decode 0b0000000000000000_00000000_0000_0001#32 = .command .crcReset ∧
      decode 0b1111111111111111_11111111_0000_0001#32 = .command .crcReset := by decide

/-- E3 and E4. -/
theorem test_decode_crcUpdate :
    decode 0b0000000000000000_10110100_0000_0010#32 = .command (.crcUpdate 0xB4) ∧
      decode 0b0001001000110100_10110100_0000_0010#32 = .command (.crcUpdate 0xB4) := by decide

/-- E5. -/
theorem test_decode_frameRead : decode 0b0000000000000000_00000111_0000_0011#32 = .command (.frameRead 0x07) := by decide

/-- E6. -/
theorem test_decode_frameWrite :
    decode 0b0111111111111111_00100100_0000_0100#32 = .command (.frameWrite 0x24 0x7FFF) := by decide

/-- E7 and E8. -/
theorem test_decode_regRead :
    decode 0b0000000000000000_00000000_0000_0101#32 = .command (.regRead 0x00) ∧
      decode 0b0000000000000000_00000011_0000_0101#32 = .command (.regRead 0x03) := by decide

/-- E9. -/
theorem test_decode_regWrite :
    decode 0b0000000001000000_00000011_0000_0110#32 = .command (.regWrite 0x03 0x0040) := by decide

/-- E10 to E16. -/
theorem test_decode_refusals :
    decode 0x00000000#32 = .refused .reservedOp ∧ decode 0x00000007#32 = .refused .reservedOp ∧
      decode 0x0000000F#32 = .refused .reservedOp ∧ decode 0x00000010#32 = .refused .rsvNonzero ∧
      decode 0x00000515#32 = .refused .rsvNonzero ∧ decode 0x00000605#32 = .refused .reservedIndex ∧
      decode 0x0000FF06#32 = .refused .reservedIndex := by decide

/-- An opcode-table word is decoded and placed as the next command. -/
theorem test_withFetchWord :
    decodeTableWord 32 0x7FFF2404 = some (.frameWrite 0x24 0x7FFF) ∧
      answered (fun t => t.crcAcc) (step (State.reset.withFetchWord 32 0x0000B402)) = some 0x05 := by decide

/-! The source of a program (R81, R82, R83). -/

theorem test_assemble_text :
    assembleText "frame.write 0x24, 0x7FFF".toList = some [0x7FFF2404#32] ∧
      assembleText "reg.write ADDR, 0x0000".toList = some [0x00000206#32] ∧
      assembleText " crc.update\t180 ".toList = some [0x0000B402#32] ∧
      assembleText "crc.update 0xb4".toList = some [0x0000B402#32] ∧
      assembleText "err.clear".toList = some [0x00000306#32] := by decide

theorem test_assemble_rejects :
    assembleText "crc.update 0x100".toList = none ∧ assembleText "frame.write 0x24, 65536".toList = none ∧
      assembleText "crc.reset 1".toList = none ∧ assembleText "crc.add 1".toList = none ∧
      assembleText "crc.update 0x".toList = none ∧ assembleText "crc.update B4".toList = none := by decide

theorem test_assemble_crcFrame :
    assembleText "crc.frame 0xB4, 0x07".toList = some [0x00000001#32, 0x0000B402#32, 0x00000702#32] := by decide

/-! The checksum engine. -/

/-- C1 and C2: all eight rounds. -/
theorem test_crc8Step_rounds :
    (List.range 9).map (fun n => crcRounds 0x07 n 0xB4) =
        [0xB4, 0x6F, 0xDE, 0xBB, 0x71, 0xE2, 0xC3, 0x81, 0x05] ∧
      crc8Step 0x07 0x05 0x07 = 0x0E := by decide

/-- C22, C29 and C32. -/
theorem test_crc8_sequences :
    crc8 0x07 [0xB4, 0x07, 0xB5, 0x20, 0x4E] = 0x45 ∧ crc8 0x07 [0x00, 0x2E, 0x5A, 0x00] = 0xE1 ∧
      crc8 0x07 [] = 0x00 := by decide +kernel

/-- C11. -/
theorem test_crcReset :
    answered (fun t => (t.crcAcc, t.resp, t.crcPoly)) (exec .crcReset { State.reset with crcAcc := 0x06, resp := 0x1234 }) =
      some (0x00, 0x0000, 0x07) := by decide

/-- C10. -/
theorem test_crcUpdate :
    answered (fun t => (t.crcAcc, t.resp)) (exec (.crcUpdate 0xA5) { State.reset with crcAcc := 0x5A }) =
      some (0xF3, 0x00F3) := by decide

/-! The frame builder. -/

/-- FR7 and FR13. -/
theorem test_frameRead_errors :
    answered columns (runCommand (.frameRead 0x07) 1 (ready 0x5A 0x00 [some 2, some 0xFF, some 0xFF, some 0xFF])) =
        some (0x12, 0x22, 0xFF, 0xFFFF) ∧
      answered columns (runCommand (.frameRead 0x07) 1 (ready 0x5A 0x40 [some 2, some 0x00, some 0x00, some 0x05])) =
        some (0x52, 0x06, 0x05, 0x0000) := by decide +kernel

/-- FR15 and FR16. -/
theorem test_frameRead_broadcast :
    answered columns (runCommand (.frameRead 0x2E) 1 (ready 0x00 0x00 [some 3, some 0x5A, some 0x00, some 0x00])) =
        some (0x10, 0xEF, 0x00, 0x005A) ∧
      answered columns (runCommand (.frameRead 0x2E) 1 (ready 0x00 0x00 [some 1, some 0x5A, some 0x00, some 0xEF])) =
        some (0x01, 0xEF, 0xEF, 0x005A) := by decide +kernel

/-- FW1. -/
theorem test_frameWrite_bus :
    answered (fun t => t.busLog) (exec (.frameWrite 0x24 0x7FFF) (ready 0x5A 0x00 [some 0])) =
      some [.busBegin 0x5A, .busWrite 0x24, .busWrite 0xFF, .busWrite 0x7F, .busWrite 0x85, .busEnd true, .answer 0] := by
  decide +kernel

/-- FW8 and FW11. -/
theorem test_frameWrite_errors :
    answered columns (exec (.frameWrite 0x24 0x0000) (ready 0x5A 0x60 [some 3])) = some (0x64, 0x28, 0x33, 0x0000) ∧
      answered columns (exec (.frameWrite 0x2E 0x005B) (ready 0x00 0x00 [some 3])) = some (0x00, 0xF4, 0x33, 0x0000) := by
  decide +kernel

/-- FS2, after the step of TURN: the third BusRead is never answered. -/
theorem test_frameRead_stall :
    answered (fun t => (t.busy, t.phase, columns t))
        (runCommand (.frameRead 0x07) 1 { ready 0x5A 0x7F [some 0, some 0x20, some 0x4E, none] with resp := 0x1234 }) =
      some (true, .rPhase, 0x60, 0x00, 0x33, 0x1234) := by decide

/-! Register access. -/

/-- G3, and ERR bit 7 in a state no run reaches (R25, R141). -/
theorem test_regRead :
    answered (fun t => (t.resp, t.err)) (exec (.regRead 0x03) (ready 0x5A 0x10 [])) = some (0x0010, 0x10) ∧
      answered (fun t => t.resp) (exec (.regRead 0x03) (ready 0x5A 0xFF [])) = some 0x007F := by decide

/-- G4 and G7. -/
theorem test_regWrite :
    answered (fun t => (t.addr, t.resp)) (exec (.regWrite 0x02 0x00FF) (ready 0x5A 0x00 [])) = some (0x7F, 0x0000) ∧
      answered (fun t => (t.err, t.resp)) (exec (.regWrite 0x03 0xFFFF) (ready 0x5A 0x00 [])) = some (0x7F, 0x0000) := by
  decide

/-! Witnesses: for every statement with hypotheses, values that meet all of them; several where it has several clauses. -/

theorem witness_ResetValues : (waiting [.reset] [none]).host = .reset :: [] := by decide

theorem witness_ResetAbandonsFrameCommand :
    (waiting [.reset] [none]).busy = true ∧ (waiting [.reset] [none]).host = .reset :: [] := by decide

theorem witness_StepKeepsInv : BlockInv State.reset ∧ ∃ t, step State.reset = .next t :=
  ⟨⟨by decide, by decide, by decide, by decide, by decide⟩, _, rfl⟩

/-- The invariant also holds in the middle of a frame command. -/
theorem witness_StepKeepsInv_busy : BlockInv (waiting [] [some 0]) ∧ ∃ t, step (waiting [] [some 0]) = .next t :=
  ⟨⟨by decide, by decide, by decide, by decide, by decide⟩, _, rfl⟩

theorem witness_StepRunsDecodedCommand :
    let s := { State.reset with host := [.word 0x0000B402#32] }
    s.busy = false ∧ s.host = .word 0x0000B402#32 :: [] ∧ decode 0x0000B402#32 = .command (.crcUpdate 0xB4) := by decide

theorem witness_StepWithoutCommand :
    State.reset.host = [] ∧ State.reset.busy = false ∧ (waiting [.pause] []).host = .pause :: [] ∧
      (waiting [.word 0x00000001#32] []).busy = true ∧
      (waiting [.word 0x00000001#32] []).host = .word 0x00000001#32 :: [] ∧ (waiting [.reset] []).host = .reset :: [] ∧
      decode 0x00000010#32 = .refused .rsvNonzero ∧
      { State.reset with host := [.word 0x00000010#32] }.host = .word 0x00000010#32 :: [] := by decide

theorem witness_NoCommandAcceptedWhileBusy :
    (waiting [.word 0x00000001#32] [none]).busy = true ∧
      (waiting [.word 0x00000001#32] [none]).host = .word 0x00000001#32 :: [] := by decide

theorem witness_NoBusActivityWithoutFrameCommand :
    let s := { State.reset with host := [.word 0x0000B402#32] }
    s.busy = false ∧ (∀ w ∈ hostWords s.host, ∀ i, decode w = .command i → isFrame i = false) ∧
      ∃ t, runSteps 2 s = .next t := by
  refine ⟨by decide, ?_, _, rfl⟩
  intro w hw i h
  obtain rfl : w = 0x0000B402#32 := by simpa [hostWords] using hw
  have e : decode 0x0000B402#32 = .command (.crcUpdate 0xB4) := by decide
  rw [e] at h
  cases h
  rfl

theorem witness_DecodeEncodeRoundTrip :
    Instr.wellFormed (.frameWrite 0xFF 0xFFFF) = true ∧ Instr.wellFormed (.regWrite 0x05 0x8000) = true := by decide

theorem witness_EncodeOfDecodedWord : decode 0xFFFFFF01#32 = .command .crcReset := by decide

theorem witness_IgnoredFieldsHaveNoEffect : State.reset.busy = false := by decide

/-- One word for each clause, at the ends of its range. -/
theorem witness_ReservedWordsRefused :
    let fields := fun w : CommandWord => ((w.extractLsb' 0 4).toNat, w.extractLsb' 4 4, (w.extractLsb' 8 8).toNat)
    fields 0x00000011#32 = (1, 1#4, 0) ∧ fields 0x00000000#32 = (0, 0#4, 0) ∧ fields 0x00000007#32 = (7, 0#4, 0) ∧
      fields 0x00000605#32 = (5, 0#4, 6) ∧ fields 0x0000FF06#32 = (6, 0#4, 255) ∧ fields 0x00000001#32 = (1, 0#4, 0) ∧
      fields 0x0000FF04#32 = (4, 0#4, 255) ∧ fields 0x00000505#32 = (5, 0#4, 5) ∧
      { State.reset with host := [.word 0x00000011#32] }.host = .word 0x00000011#32 :: [] := by decide

theorem witness_CrcStepIsEightRounds : State.reset.busy = false ∧ BlockInv State.reset :=
  ⟨rfl, witness_StepKeepsInv.1⟩

theorem witness_CrcTableForm : (0x00#8 : Byte) ≠ 0x80#8 := by decide

theorem witness_CrcResetCompletes : (ready 0x5A 0x00 []).busy = false := by decide

theorem witness_CrcUpdateCompletes :
    (ready 0x5A 0x00 []).busy = false ∧ (0x5A ^^^ 0xA5 : Byte) = 0xFF ^^^ 0x00 := by decide

theorem witness_CrcEngineHasNoHiddenInput :
    let s1 := State.reset
    let s2 := ready 0x00 0x7F [none]
    (∀ i ∈ [Instr.crcUpdate 0xB4, .crcReset], isCrc i = true) ∧ s1.busy = false ∧ s2.busy = false ∧
      s1.crcAcc = s2.crcAcc ∧ s1.crcPoly = s2.crcPoly ∧ s1 ≠ s2 := by decide

theorem witness_ChecksumSurvivesInterleavedCommands :
    let cmds := [Instr.crcUpdate 0xB4, .frameRead 0x07, .crcUpdate 0x07]
    let s := { ready 0x5A 0x00 [none, some 0, some 0, some 0, some 6] with
      host := (Instr.crcReset :: cmds).map (fun i => HostEvent.word (encode i)) }
    s.crcPoly = 0x07#8 ∧ (∀ i ∈ cmds, i.wellFormed = true ∧ i ≠ .crcReset) ∧
      s.host = (Instr.crcReset :: cmds).map (fun i => HostEvent.word (encode i)) ∧
      answered (fun t => (t.host, t.crcAcc)) (runSteps 6 s) = some ([], 0x0E) := by decide +kernel

/-- The upper clause of the status mapping, at both ends. -/
theorem witness_StatusMapping : 4 ≤ (4#8 : Byte).toNat ∧ 4 ≤ (255#8 : Byte).toNat := by decide

/-- The answers of FR1, ready. -/
theorem witness_FrameReadCompletes :
    let s := ready 0x5A 0x00 [some 0, some 0x00, some 0x00, some 0x06]
    s.busy = false ∧ busAnswers 4 s = some ([0, 0x00, 0x00, 0x06], ready 0x5A 0x00 []) ∧ ¬ ResetNext s := by decide

/-- A reset that lands in TURN. -/
theorem witness_ResetInTurnCancelsReadPhase :
    let s := { ready 0x5A 0x00 [some 2, some 0xFF] with host := [.reset] }
    s.busy = false ∧ takeMove s = (some 2, { ready 0x5A 0x00 [some 0xFF] with host := [.reset] }) ∧
      s.host = .reset :: [] := by decide

theorem witness_FrameReadBusSequence :
    let s := ready 0x5A 0x00 [some 2, some 0xFF, some 0xFF, some 0xFF]
    s.busy = false ∧ busAnswers 4 s = some ([2, 0xFF, 0xFF, 0xFF], ready 0x5A 0x00 []) ∧ ¬ ResetNext s ∧
      answered (fun u => (u.phase, (goOn u).phase)) (exec (.frameRead 0x07) (ready 0x5A 0x00 [some 0, none])) =
        some (.turn, .rPhase) := by decide

theorem witness_FrameReadPecValidation :
    let s := ready 0x00 0x00 [some 3, some 0x5A, some 0x00, some 0x00]
    s.busy = false ∧ s.crcPoly = 0x07#8 ∧ busAnswers 4 s = some ([3, 0x5A, 0x00, 0x00], ready 0x00 0x00 []) ∧
      ¬ ResetNext s := by decide

/-- The host may reset later. -/
theorem witness_FrameReadReturnsValueAlways :
    let s := { ready 0x5A 0x00 [some 255, some 0x20, some 0x4E, some 0x00] with host := [.pause, .reset] }
    s.busy = false ∧ busAnswers 4 s = some ([255, 0x20, 0x4E, 0x00], { s with busIn := [] }) ∧ ¬ ResetNext s := by decide

theorem witness_FailedWritePhaseStillReads :
    let s := ready 0x5A 0x00 [some 2, some 0xFF, some 0xFF, some 0xFF]
    s.busy = false ∧ takeMove s = (some 2, ready 0x5A 0x00 [some 0xFF, some 0xFF, some 0xFF]) ∧
      busAnswers 4 s = some ([2, 0xFF, 0xFF, 0xFF], ready 0x5A 0x00 []) ∧ ¬ ResetNext s := by decide

theorem witness_FrameWriteCompletes :
    let s := ready 0x5A 0x60 [some 3]
    s.busy = false ∧ busAnswers 1 s = some ([3], ready 0x5A 0x60 []) := by decide

/-- With the bus agent silent the primitives are still all there. -/
theorem witness_FrameWriteBusSequence :
    (ready 0x5A 0x00 [none]).busy = false ∧
      answered (fun t => (t.busLog.filter isPrimitive).length) (exec (.frameWrite 0x24 0x7FFF) (ready 0x5A 0x00 [none])) =
        some 6 := by decide

/-- At the broadcast address and at the one beside it, for both commands. -/
theorem witness_BroadcastSuppression :
    let s := ready 0x00 0x00 [some 2, some 0x5A, some 0x00, some 0xEF]
    let u := ready 0x01 0x00 [some 2]
    s.busy = false ∧ s.addr = 0x00#7 ∧ busAnswers 4 s = some ([2, 0x5A, 0x00, 0xEF], ready 0x00 0x00 []) ∧
      ¬ ResetNext s ∧ u.busy = false ∧ u.addr ≠ 0x00#7 ∧ busAnswers 1 u = some ([2], ready 0x01 0x00 []) := by decide

theorem witness_FrameErrorsDependOnThisCommandOnly :
    let s1 := ready 0x5A 0x00 [some 0, some 0x00, some 0x00, some 0x06]
    let s2 := ready 0x5A 0x7F [some 0, some 0x00, some 0x00, some 0x06]
    s1.busy = false ∧ s2.busy = false ∧ s1.addr = s2.addr ∧ s1.crcPoly = s2.crcPoly ∧
      busAnswers 4 s1 = some ([0, 0x00, 0x00, 0x06], ready 0x5A 0x00 []) ∧
      busAnswers 4 s2 = some ([0, 0x00, 0x00, 0x06], ready 0x5A 0x7F []) ∧ ¬ ResetNext s1 ∧ ¬ ResetNext s2 := by decide

theorem witness_FrameErrorsDependOnThisCommandOnly_write :
    let s1 := ready 0x5A 0x10 [some 0]
    let s2 := ready 0x5A 0x60 [some 0]
    s1.busy = false ∧ s2.busy = false ∧ s1.addr = s2.addr ∧ busAnswers 1 s1 = some ([0], ready 0x5A 0x10 []) ∧
      busAnswers 1 s2 = some ([0], ready 0x5A 0x60 []) := by decide

/-- Silence at the BusEnd and at each of the three BusReads. -/
theorem witness_SilentBusStallsFrameCommands :
    let s := fun answers => ready 0x5A 0x00 (answers ++ [none])
    (s []).busy = false ∧ takeMove (s []) = (none, ready 0x5A 0x00 []) ∧ ¬ ResetNext (s [some 0]) ∧
      busAnswers (0 + 1) (s [some 0]) = some ([0], s []) ∧
      busAnswers (1 + 1) (s [some 0, some 0x20]) = some ([0, 0x20], s []) ∧
      busAnswers (2 + 1) (s [some 0, some 0x20, some 0x4E]) = some ([0, 0x20, 0x4E], s []) := by decide

theorem witness_StalledFrameLeavesOnlyByReset :
    let s := waiting [.pause, .word 0x00000001#32] [none, none, some 0]
    Stalled s ∧ takeMoves (List.replicate 2 none) s = some (waiting [.pause, .word 0x00000001#32] [some 0]) ∧
      (∀ e ∈ s.host, e ≠ .reset) ∧ Stalled (waiting [.reset] [none]) ∧ (waiting [.reset] [none]).host = .reset :: [] := by
  decide

theorem witness_DelayedFrameReadEndsTheSame :
    let s := { ready 0x5A 0x00 [none, some 0, some 0x20, none, none, some 0x4E, some 0x45] with
      host := [.word 0x00000703#32, .pause] }
    s.busy = false ∧ s.host = .word 0x00000703#32 :: [.pause] ∧ decode 0x00000703#32 = .command (.frameRead 0x07) ∧
      (∀ e ∈ [HostEvent.pause], e ≠ .reset) ∧
      takeMoves (List.replicate 1 none ++ some 0 :: (List.replicate 0 none ++ some 0x20 :: (List.replicate 2 none ++
        some 0x4E :: (List.replicate 0 none ++ [some 0x45])))) s = some { s with busIn := [] } ∧
      answered columns (runSteps (2 + (1 + 0 + 2 + 0)) s) = some (0x00, 0x45, 0x45, 0x4E20) := by decide +kernel

theorem witness_DelayedFrameWriteEndsTheSame :
    let s := { ready 0x5A 0x00 [none, some 0] with host := [.word 0x7FFF2404#32] }
    s.busy = false ∧ s.host = .word 0x7FFF2404#32 :: [] ∧ decode 0x7FFF2404#32 = .command (.frameWrite 0x24 0x7FFF) ∧
      takeMoves (List.replicate 1 none ++ [some 0]) s = some { s with busIn := [] } := by decide

theorem witness_ResultsHeldWhileBusy :
    answered (fun t => t.busy) (step (waiting [] [some 0, none])) = some true := by decide

theorem witness_FrameCommandsFrame :
    isFrame (.frameRead 0x07) = true ∧ isFrame (.frameWrite 0x24 0x0000) = true ∧
      (∃ t, exec (.frameRead 0x07) (ready 0x5A 0x00 [none]) = .next t) ∧
      ∃ t, exec (.frameWrite 0x24 0x0000) (ready 0x5A 0x00 [some 0]) = .next t :=
  ⟨by decide, by decide, ⟨_, rfl⟩, _, rfl⟩

theorem witness_RegReadShowsRegister :
    (ready 0x5A 0x00 []).busy = false ∧ (ready 0x5A 0x00 []).crcPoly = 0x07#8 := by decide

theorem witness_RegWriteAddr : (ready 0x7F 0x00 [none]).busy = false := by decide

theorem witness_RegWriteErr :
    (ready 0x5A 0x7F []).busy = false ∧ ∃ r, exec (.regRead 0x03#8) (ready 0x5A 0x7F []) = .next r :=
  ⟨by decide, _, rfl⟩

theorem witness_RegWriteReadOnlyHasNoEffect :
    (ready 0x5A 0x00 []).busy = false ∧
      (0x05#8 = 0x00#8 ∨ 0x05#8 = 0x01#8 ∨ 0x05#8 = 0x04#8 ∨ 0x05#8 = 0x05#8) := by decide

theorem witness_RegisterIndexRange :
    (ready 0x5A 0x00 []).busy = false ∧ 0x05#8 < 0x06#8 ∧ 0x05#8 < 0xFF#8 ∧ 0x05#8 ≤ 0x05#8 := by decide

theorem witness_ImmediateCommandsFrame :
    isFrame (.regWrite 0x02 0x0000) = false ∧ (∃ t, exec (.regWrite 0x02 0x0000) (ready 0x5A 0x00 []) = .next t) ∧
      isCrc (.regRead 0x05) = false ∧ ∃ t, exec (.regRead 0x05) (ready 0x5A 0x00 []) = .next t :=
  ⟨by decide, ⟨_, rfl⟩, by decide, _, rfl⟩

theorem witness_CrcPolyNeverChanges : State.reset.crcPoly = 0x07#8 ∧ ∃ t, step State.reset = .next t := ⟨by decide, _, rfl⟩

/-- A step that changes CRC_ACC, so that the statement's other cases are met too. -/
theorem witness_CrcAccWriters :
    ∃ t, step { State.reset with host := [.word 0x0000B402#32] } = .next t ∧ t.crcAcc ≠ State.reset.crcAcc :=
  ⟨_, rfl, by decide⟩

/-- A step that changes ADDR. -/
theorem witness_AddrWriters :
    ∃ t, step { State.reset with host := [.word 0x00FF0206#32] } = .next t ∧ t.addr ≠ State.reset.addr := ⟨_, rfl, by decide⟩

/-- A step that sets SEM and CORRUPT. -/
theorem witness_HostErrorBitsWriters :
    ∃ t, step { State.reset with host := [.word 0x00600306#32] } = .next t ∧ t.err &&& 0x60#8 ≠ State.reset.err &&& 0x60#8 :=
  ⟨_, rfl, by decide⟩

/-- A step that changes LAST_CRC and LAST_PEC. -/
theorem witness_DiagnosticRegisterWriters :
    let s := readTurn 0x07 0 (ready 0x5A 0x00 []) (ready 0x5A 0x00 [some 0x20, some 0x4E, some 0x44])
    ∃ t, step s = .next t ∧ t.lastCrc ≠ s.lastCrc ∧ t.lastPec ≠ s.lastPec := ⟨_, rfl, by decide +kernel⟩

end Sys2Proof.Tests
end

section
/-! Proofs of the statements about reset and CRC_POLY (10_state.md R22, R34), and the lemmas about what a reset event does
and what leaves CRC_POLY alone. -/

namespace Sys2Proof.Machine

/-- A reset event takes effect at once, whatever BUSY is (R181). -/
theorem step_reset {s : State} {rest : List HostEvent} (h : s.host = .reset :: rest) :
    step s = .next (resetBlock { s with host := rest }) := by
  simp [step, fetch, h]

/-- A register write cannot reach CRC_POLY (R22). -/
theorem regStore_crcPoly {i : Byte} {v : Value} {s t : State} (h : regStore i v s = some t) : t.crcPoly = s.crcPoly := by
  rcases regStore_cases h with rfl | ⟨-, rfl⟩ | ⟨-, rfl⟩ <;> rfl

/-- No command writes CRC_POLY (R22). -/
theorem exec_crcPoly {i : Instr} {s t : State} (h : exec i s = .next t) : t.crcPoly = s.crcPoly := by
  cases i with
  | crcReset => obtain ⟨-, rfl⟩ := execCrcReset_next h; rfl
  | crcUpdate b => obtain ⟨-, rfl⟩ := execCrcUpdate_next h; rfl
  | frameRead c =>
    obtain ⟨-, rfl⟩ := execFrameRead_next h
    exact (goOn_same _).crcPoly.trans (acceptRead_crcPoly c s)
  | frameWrite c v =>
    obtain ⟨-, rfl⟩ := execFrameWrite_next h
    exact (goOn_same _).crcPoly.trans (acceptWrite_crcPoly c v s)
  | regRead r => obtain ⟨-, v, -, rfl⟩ := execRegRead_next h; rfl
  | regWrite r v =>
    obtain ⟨-, s1, hs, rfl⟩ := execRegWrite_next h
    exact (regStore_crcPoly hs :)

/-- A step leaves CRC_POLY alone, but for a reset, which makes it P_POLY (R22). -/
theorem step_crcPoly {s t : State} (h : step s = .next t) :
    t.crcPoly = s.crcPoly ∨ ResetNext s ∧ t.crcPoly = Config.pPoly := by
  rcases step_next_cases h with ⟨rest, hh, rfl⟩ | ⟨rest, -, rfl⟩ | ⟨w, rest, -, -, rfl⟩ | ⟨w, rest, i, -, -, -, he⟩ | ⟨-, rfl⟩
  · exact .inr ⟨congrArg List.head? hh, resetBlock_crcPoly _⟩
  · exact .inl (goOn_same _).crcPoly
  · exact .inl (goOn_same s).crcPoly
  · exact .inl (exec_crcPoly he :)
  · exact .inl (goOn_same s).crcPoly

/-- Settles O50: neither a command nor the frame builder writes CRC_POLY, and a reset writes 0x07. -/
theorem crcPolyNeverChanges : Obligations.CrcPolyNeverChanges := by
  unfold Obligations.CrcPolyNeverChanges
  refine ⟨rfl, fun s t hs h => ?_⟩
  rcases step_crcPoly h with hk | ⟨-, hp⟩
  · exact hk.trans hs
  · exact hp

/-- Settles O1: a reset event runs `resetBlock`, which takes every register of R34 from `State.reset`. -/
theorem resetValues : Obligations.ResetValues := by
  unfold Obligations.ResetValues
  refine ⟨by decide, fun s rest hh => ⟨_, step_reset hh, ?_⟩⟩
  exact ⟨rfl, rfl, rfl, rfl, rfl, rfl, rfl, rfl, rfl⟩

end Sys2Proof.Machine
end

section
/-! Proofs of the statements about ignored fields and reserved words (30_encoding.md R76 to R78): what the decoder makes of
every value of RSV, OP and a register index, and what the next step does with the word. -/

namespace Sys2Proof

/-- A word whose low byte is RSV 0000 and an OP decodes as that operation with its B and V (R70). -/
theorem decode_append (v : Value) (b : Byte) (op : BitVec 4) :
    decode (v ++ b ++ (0#4 ++ op : BitVec 8) : CommandWord) = decodeOp op b v := by
  rw [append_eq_packWord, decode_packWord]

theorem decode_rsvNonzero {w : CommandWord} (h : fieldRsv w ≠ 0#4) : decode w = .refused .rsvNonzero := if_neg h

theorem decode_rsvZero {w : CommandWord} (h : fieldRsv w = 0#4) :
    decode w = decodeOp (fieldOp w) (fieldB w) (fieldV w) := if_pos h

/-- The defined register indices are 0x00 to 0x05 (R33). -/
theorem regIndexDefined_iff (i : Byte) : regIndexDefined i = true ↔ i.toNat ≤ 5 := by
  simp [regIndexDefined, BitVec.le_def]

/-- The operations R77 reserves, 0x0 and 0x7 to 0xF. -/
theorem decodeOp_reserved {op : BitVec 4} (b : Byte) (v : Value) (h : op.toNat = 0 ∨ 7 ≤ op.toNat) :
    decodeOp op b v = .refused .reservedOp := by
  unfold decodeOp
  split
  case h_7 => rfl
  all_goals omega

/-- Operations 0x1 to 0x4 have no reserved operand (R78). -/
theorem decodeOp_anyOperand {op : BitVec 4} (b : Byte) (v : Value) (h : 1 ≤ op.toNat ∧ op.toNat ≤ 4) :
    ∃ i : Instr, i.wellFormed = true ∧ decodeOp op b v = .command i := by
  obtain e | e | e | e : op.toNat = 1 ∨ op.toNat = 2 ∨ op.toNat = 3 ∨ op.toNat = 4 := by omega
  · exact ⟨.crcReset, rfl, by simp [decodeOp, e]⟩
  · exact ⟨.crcUpdate b, rfl, by simp [decodeOp, e]⟩
  · exact ⟨.frameRead b, rfl, by simp [decodeOp, e]⟩
  · exact ⟨.frameWrite b v, rfl, by simp [decodeOp, e]⟩

/-- Operations 0x5 and 0x6 are the register accesses, well formed when their index is defined. -/
theorem decodeOp_regAccess {op : BitVec 4} (b : Byte) (v : Value) (h : op.toNat = 5 ∨ op.toNat = 6) :
    ∃ i : Instr, i.wellFormed = regIndexDefined b ∧ decodeOp op b v = decodeRegAccess b i := by
  obtain e | e := h
  · exact ⟨.regRead b, rfl, by simp [decodeOp, e]⟩
  · exact ⟨.regWrite b v, rfl, by simp [decodeOp, e]⟩

theorem decodeOp_reservedIndex {op : BitVec 4} {b : Byte} (v : Value) (h : op.toNat = 5 ∨ op.toNat = 6)
    (hb : 5 < b.toNat) : decodeOp op b v = .refused .reservedIndex := by
  obtain ⟨i, -, hd⟩ := decodeOp_regAccess b v h
  have hn : ¬ regIndexDefined b = true := by rw [regIndexDefined_iff]; omega
  exact hd.trans (if_neg hn)

theorem decodeOp_definedIndex {op : BitVec 4} {b : Byte} (v : Value) (h : op.toNat = 5 ∨ op.toNat = 6)
    (hb : b.toNat ≤ 5) : ∃ i : Instr, i.wellFormed = true ∧ decodeOp op b v = .command i := by
  obtain ⟨i, hi, hd⟩ := decodeOp_regAccess b v h
  have hr : regIndexDefined b = true := (regIndexDefined_iff b).mpr hb
  exact ⟨i, hi.trans hr, hd.trans (if_pos hr)⟩

end Sys2Proof

namespace Sys2Proof.Machine

/-- With BUSY = 0 a word that decodes to a command is taken from the host and run (R79, R80). -/
theorem step_command {s : State} {w : CommandWord} {rest : List HostEvent} {i : Instr} (hb : s.busy = false)
    (hh : s.host = .word w :: rest) (hd : decode w = .command i) : step s = exec i { s with host := rest } := by
  simp [step, fetch, hh, hb, hd]

/-- With BUSY = 0 a word that is no command has no step (R77, R78). -/
theorem step_refusedWord {s : State} {w : CommandWord} {rest : List HostEvent} {r : DecodeRefusal} (hb : s.busy = false)
    (hh : s.host = .word w :: rest) (hd : decode w = .refused r) : step s = .refused (refusalOf r) := by
  simp [step, fetch, hh, hb, hd]

/-- A step sees of the host's word only what it decodes to. -/
theorem step_word_congr {s : State} {w w' : CommandWord} (rest : List HostEvent) (hb : s.busy = false)
    (hd : decode w = decode w') :
    step { s with host := .word w :: rest } = step { s with host := .word w' :: rest } := by
  simp [step, fetch, hb, hd]

theorem regValue_defined {i : Byte} (h : regIndexDefined i = true) (s : State) : ∃ v, regValue i s = some v := by
  rw [regIndexDefined_iff] at h
  unfold regValue
  split
  case h_7 => simp only [imp_false] at *; omega
  all_goals exact ⟨_, rfl⟩

theorem regStore_defined {i : Byte} (h : regIndexDefined i = true) (v : Value) (s : State) :
    ∃ t, regStore i v s = some t := by
  rw [regIndexDefined_iff] at h
  unfold regStore
  split
  case h_7 => simp only [imp_false] at *; omega
  all_goals exact ⟨_, rfl⟩

/-- Every well-formed command has a next state from BUSY = 0. -/
theorem exec_wellFormed {i : Instr} {s : State} (hi : i.wellFormed = true) (hb : s.busy = false) :
    ∃ t, exec i s = .next t := by
  cases i with
  | crcReset => simp [exec, execCrcReset, hb]
  | crcUpdate b => simp [exec, execCrcUpdate, hb]
  | frameRead c => simp [exec, execFrameRead, hb]
  | frameWrite c v => simp [exec, execFrameWrite, hb]
  | regRead r =>
    obtain ⟨v, hv⟩ := regValue_defined hi s
    simp [exec, execRegRead, hb, hv]
  | regWrite r v =>
    obtain ⟨t, ht⟩ := regStore_defined hi v s
    simp [exec, execRegWrite, hb, ht]

/-- With BUSY = 0 a word that decodes to a well-formed command has a next state. -/
theorem step_wellFormed {s : State} {w : CommandWord} {rest : List HostEvent} (hb : s.busy = false)
    (hh : s.host = .word w :: rest) (hd : ∃ i : Instr, i.wellFormed = true ∧ decode w = .command i) :
    ∃ t, step s = .next t := by
  obtain ⟨i, hi, hd⟩ := hd
  rw [step_command hb hh hd]
  exact exec_wellFormed hi hb

/-- Settles O11: `decodeOp` passes no ignored field on, and a step sees of the word only what it decodes to. -/
theorem ignoredFieldsHaveNoEffect : Obligations.IgnoredFieldsHaveNoEffect := by
  unfold Obligations.IgnoredFieldsHaveNoEffect
  intro same v v' b b'
  have same_of_decode {w w' : CommandWord} (hd : decode w = decode w') : same w w' :=
    ⟨hd, fun _ rest hb => step_word_congr rest hb hd⟩
  have same_of_decodeOp (op : BitVec 4) {c c' : Byte} (h : decodeOp op c v = decodeOp op c' v') :
      same (v ++ c ++ (0#4 ++ op : BitVec 8)) (v' ++ c' ++ (0#4 ++ op : BitVec 8)) :=
    same_of_decode (by rw [decode_append, decode_append, h])
  exact ⟨same_of_decodeOp 1#4 rfl, same_of_decodeOp 2#4 rfl, same_of_decodeOp 3#4 rfl, same_of_decodeOp 5#4 rfl⟩

/-- Settles O12: each clause is one range of RSV, OP and B in the decoder, and the step refuses what the decoder refuses
and runs what it accepts. -/
theorem reservedWordsRefused : Obligations.ReservedWordsRefused := by
  unfold Obligations.ReservedWordsRefused
  intro s w rest hb hh op rsv b
  refine ⟨fun hr => ?_, fun hr ho => ?_, fun hr ho hi => ?_, fun hr ho => ?_, fun hr ho hi => ?_⟩
  · exact step_refusedWord hb hh (decode_rsvNonzero hr)
  · exact step_refusedWord hb hh ((decode_rsvZero hr).trans (decodeOp_reserved _ _ ho))
  · exact step_refusedWord hb hh ((decode_rsvZero hr).trans (decodeOp_reservedIndex _ ho hi))
  · exact step_wellFormed hb hh (by rw [decode_rsvZero hr]; exact decodeOp_anyOperand _ _ ho)
  · exact step_wellFormed hb hh (by rw [decode_rsvZero hr]; exact decodeOp_definedIndex _ ho hi)

end Sys2Proof.Machine
end

section
/-! Proofs of the statements about the checksum engine's own commands (40_crc_engine.md R90 to R94): the step as an iterated
round, and what CRC.RESET, CRC.UPDATE and any sequence of them make of the state. -/

namespace Sys2Proof.Machine

/-- The step as eight rounds in a row (R90). -/
theorem crc8Step_eq_iterate (p acc b : Byte) : crc8Step p acc b = (crcRound p)^[8] (acc ^^^ b) :=
  crcRounds_eq_iterate p 8 (acc ^^^ b)

/-- The step sees the accumulator and the byte only through their XOR. -/
theorem crc8Step_congr {acc b acc' b' : Byte} (p : Byte) (h : acc ^^^ b = acc' ^^^ b') :
    crc8Step p acc b = crc8Step p acc' b' := congrArg (crcRounds p 8) h

/-- Folding the accumulator into itself clears it. -/
@[simp] theorem crc8Step_self (p acc : Byte) : crc8Step p acc acc = 0x00#8 := by
  rw [crc8Step_eq_rounds_xor, BitVec.xor_self, crcRounds_zero]

/-- CRC.RESET with BUSY = 0 (R92). -/
theorem exec_crcReset {s : State} (hb : s.busy = false) :
    exec .crcReset s = .next { s with crcAcc := 0x00#8, resp := 0x0000#16 } := by
  simp [exec, execCrcReset, setResp, hb]

/-- CRC.UPDATE with BUSY = 0 (R93). -/
theorem exec_crcUpdate (b : Byte) {s : State} (hb : s.busy = false) :
    exec (.crcUpdate b) s =
      .next { s with crcAcc := crc8Step s.crcPoly s.crcAcc b, resp := zext16 (crc8Step s.crcPoly s.crcAcc b) } := by
  simp [exec, execCrcUpdate, setResp, hb]

/-- The accumulator after a command, from CRC_POLY and CRC_ACC alone; the commands outside the engine leave it. -/
def accAfter (p acc : Byte) : Instr → Byte
  | .crcReset => 0x00#8
  | .crcUpdate b => crc8Step p acc b
  | .frameRead _ => acc
  | .frameWrite _ _ => acc
  | .regRead _ => acc
  | .regWrite _ _ => acc

/-- Both CRC commands write `accAfter` to CRC_ACC and show it in RESP. -/
theorem exec_isCrc {i : Instr} {s : State} (hi : isCrc i = true) (hb : s.busy = false) :
    exec i s = .next { s with crcAcc := accAfter s.crcPoly s.crcAcc i, resp := zext16 (accAfter s.crcPoly s.crcAcc i) } := by
  cases i with
  | crcReset => exact exec_crcReset hb
  | crcUpdate b => exact exec_crcUpdate b hb
  | frameRead c => cases hi
  | frameWrite c v => cases hi
  | regRead r => cases hi
  | regWrite r v => cases hi

/-- A sequence begins with its first command, when that completes. -/
theorem execAll_cons {i : Instr} {s t : State} (rest : List Instr) (h : exec i s = .next t) :
    execAll (i :: rest) s = execAll rest t := by
  simp [execAll, h]

/-- A sequence of CRC commands folds `accAfter` over CRC_ACC, shows the end value in RESP if there was a command, and leaves
everything else. -/
theorem execAll_isCrc {l : List Instr} {s : State} (hl : ∀ i ∈ l, isCrc i = true) (hb : s.busy = false) :
    execAll l s = .next { s with
      crcAcc := l.foldl (accAfter s.crcPoly) s.crcAcc
      resp := if l = [] then s.resp else zext16 (l.foldl (accAfter s.crcPoly) s.crcAcc) } := by
  induction l generalizing s with
  | nil => rfl
  | cons i rest ih =>
    obtain ⟨hi, hrest⟩ := List.forall_mem_cons.mp hl
    refine (execAll_cons rest (exec_isCrc hi hb)).trans ((ih hrest ?_).trans ?_)
    · exact hb
    · cases rest <;> rfl

/-- Settles O24: the end of a sequence of CRC commands is a fold from CRC_POLY and CRC_ACC alone, and ERR is not in it. -/
theorem crcEngineHasNoHiddenInput : Obligations.CrcEngineHasNoHiddenInput := by
  unfold Obligations.CrcEngineHasNoHiddenInput
  intro l s1 s2 hl hb1 hb2 hacc hpoly
  have hfold : l.foldl (accAfter s1.crcPoly) s1.crcAcc = l.foldl (accAfter s2.crcPoly) s2.crcAcc := by rw [hacc, hpoly]
  refine ⟨_, _, execAll_isCrc hl hb1, execAll_isCrc hl hb2, hfold, fun hne => ?_, rfl, rfl⟩
  simp [hne, hfold]

/-- Settles O16: `crcRounds` iterates the round, and CRC.UPDATE writes the step of CRC_POLY, which the invariant fixes. -/
theorem crcStepIsEightRounds : Obligations.CrcStepIsEightRounds := by
  unfold Obligations.CrcStepIsEightRounds
  intro round
  refine ⟨crc8Step_eq_iterate, fun b s hb => ?_, fun s hs => hs.poly_fixed⟩
  exact ⟨_, exec_crcUpdate b hb, crc8Step_eq_iterate s.crcPoly s.crcAcc b⟩

/-- Settles O17: both equations of the fold, for every polynomial. -/
theorem crc8IsLeftFold : Obligations.Crc8IsLeftFold := by
  unfold Obligations.Crc8IsLeftFold
  exact fun p => ⟨crc8_nil p, crc8_append_one p⟩

/-- Settles O22: CRC.RESET writes two registers, and the decoder reads only RSV and OP of its word. -/
theorem crcResetCompletes : Obligations.CrcResetCompletes := by
  unfold Obligations.CrcResetCompletes
  exact ⟨fun s hb => exec_crcReset hb, fun v b => decode_append v b 1#4, by decide⟩

/-- Settles O23: CRC.UPDATE writes two registers, the decoder passes B on and drops V, and the corner cases are those of
`accumulator XOR byte`. -/
theorem crcUpdateCompletes : Obligations.CrcUpdateCompletes := by
  unfold Obligations.CrcUpdateCompletes
  refine ⟨fun b s hb => exec_crcUpdate b hb, fun v b => decode_append v b 2#4, fun p acc b acc' b' h => ?_, crc8Step_self,
    by decide, by decide, by decide⟩
  exact crc8Step_congr p h

end Sys2Proof.Machine
end

section
/-! ERR through a frame command (10_state.md R25; 41_frame_builder.md R110, R111, R116, R120, R127): the host's two bits
beside what the command adds to them. -/

namespace Sys2Proof.Machine

/-- A status sets no bit or one of the four transport bits (R111). -/
theorem statusBits_cases (st : Byte) :
    statusBits st = 0x00#8 ∨ statusBits st = errTooLong ∨ statusBits st = errAddrNack ∨ statusBits st = errDataNack ∨
      statusBits st = errOther := by
  unfold statusBits
  split <;> simp

theorem statusBits_and_errTransport (st : Byte) : statusBits st &&& errTransport = statusBits st := by
  rcases statusBits_cases st with h | h | h | h | h <;> rw [h] <;> rfl

theorem statusBits_and_errFrameOwned (st : Byte) : statusBits st &&& errFrameOwned = statusBits st := by
  rw [← statusBits_and_errTransport st, BitVec.and_assoc]
  rfl

/-- The bits a frame command adds to ERR: the status bits, and PEC on a mismatch (R127). -/
def frameBits (st : Byte) (mismatch : Bool) : Byte := statusBits st ||| (if mismatch then errPec else 0x00#8)

/-- R127's function is the broadcast rule on these bits. -/
theorem frameErr_eq_suppress (mask st : Byte) (mismatch : Bool) (a : BusAddr) :
    frameErr mask st mismatch a = suppressBroadcast mask a (frameBits st mismatch) := rfl

/-- Recording the PEC comparison after the status gives the command's bits (R116). -/
theorem statusBits_or_pecBits (st computed received : Byte) :
    statusBits st ||| pecBits computed received = frameBits st (computed ≠ received) := by
  by_cases h : computed = received <;> simp [frameBits, pecBits, h]

/-- With no mismatch they are the status bits. -/
theorem frameBits_match (st : Byte) : frameBits st false = statusBits st := by simp [frameBits]

/-- The transport bits are the status's, whatever the PEC comparison gave. -/
theorem frameBits_and_errTransport (st : Byte) (mismatch : Bool) :
    frameBits st mismatch &&& errTransport = statusBits st := by
  rw [frameBits, BitVec.and_or_distrib_right, statusBits_and_errTransport]
  cases mismatch <;> simp [errPec, errTransport]

/-- A frame command adds frame-owned bits only (R25). -/
theorem frameBits_and_errFrameOwned (st : Byte) (mismatch : Bool) :
    frameBits st mismatch &&& errFrameOwned = frameBits st mismatch := by
  rw [frameBits, BitVec.and_or_distrib_right, statusBits_and_errFrameOwned]
  cases mismatch <;> rfl

/-- The PEC bit is the mismatch, whatever the status is (R116). -/
theorem frameBits_pec (st : Byte) (mismatch : Bool) : (frameBits st mismatch)[4] = mismatch := by
  rw [frameBits, ← statusBits_and_errTransport st]
  cases mismatch <;> simp [errPec, errTransport]

/-- The start-of-frame clear leaves the host's two bits (R110). -/
theorem startClear_readErr (s : State) : startClear (readErr s) &&& errDefined = s.err &&& errHostOwned := by
  unfold startClear readErr
  rw [BitVec.and_assoc, BitVec.and_assoc]
  rfl

/-- Host-owned and frame-owned bits are defined bits, so the masking of bit 7 does not touch them (R25). -/
theorem ownedBits_and_errDefined (e : Byte) {x : Byte} (hx : x &&& errFrameOwned = x) :
    (e &&& errHostOwned ||| x) &&& errDefined = e &&& errHostOwned ||| x := by
  rw [← hx, BitVec.and_or_distrib_right, BitVec.and_assoc, BitVec.and_assoc]
  rfl

/-- ERR after the start-of-frame clear and the status: the host's bits and the status bits (R110, R111). -/
theorem endWritePhase_err_of_clear {s u : State} (st : Byte) (h : u.err = startClear (readErr s) &&& errDefined) :
    (endWritePhase st u).err = s.err &&& errHostOwned ||| statusBits st := by
  rw [endWritePhase_err, readErr, h, startClear_readErr, BitVec.and_assoc]
  exact ownedBits_and_errDefined s.err (statusBits_and_errFrameOwned st)

/-- The broadcast rule only takes bits away. -/
theorem suppressBroadcast_and_errFrameOwned (mask : Byte) (a : BusAddr) {x : Byte} (hx : x &&& errFrameOwned = x) :
    suppressBroadcast mask a x &&& errFrameOwned = suppressBroadcast mask a x := by
  unfold suppressBroadcast
  split
  · rw [BitVec.and_assoc, BitVec.and_comm (~~~mask), ← BitVec.and_assoc, hx]
  · exact hx

/-- The broadcast rule passes the host's bits by (R120). -/
theorem suppressBroadcast_or (a : BusAddr) (e x : Byte) :
    suppressBroadcast Config.pBcastSuppressMask a (e &&& errHostOwned ||| x) =
      e &&& errHostOwned ||| suppressBroadcast Config.pBcastSuppressMask a x := by
  unfold suppressBroadcast
  split
  · rw [BitVec.and_or_distrib_right, BitVec.and_assoc]
    rfl
  · rfl

/-- The broadcast rule as the machine applies it, reading and writing ERR, on a command's bits beside the host's. -/
theorem suppress_ownedBits (a : BusAddr) (e st : Byte) (mismatch : Bool) :
    suppressBroadcast Config.pBcastSuppressMask a (e &&& errHostOwned ||| frameBits st mismatch) &&& errDefined =
      e &&& errHostOwned ||| frameErr Config.pBcastSuppressMask st mismatch a := by
  rw [suppressBroadcast_or, frameErr_eq_suppress]
  exact ownedBits_and_errDefined e (suppressBroadcast_and_errFrameOwned _ _ (frameBits_and_errFrameOwned st mismatch))

/-- ERR after FRAME.READ's PEC comparison and broadcast rule, from what it was in TURN (R114, R127). -/
theorem finishRead_err_of_status {s : State} {e st : Byte} (h : s.err = e &&& errHostOwned ||| statusBits st) :
    (finishRead s).err = e &&& errHostOwned ||| frameErr Config.pBcastSuppressMask st
      (crc8 s.crcPoly (readPecBytes s.xfer.a s.xfer.c s.xfer.lo s.xfer.hi) ≠ s.xfer.pec) s.xfer.a := by
  have hstatus := ownedBits_and_errDefined e (statusBits_and_errFrameOwned st)
  have hbits := fun mismatch => ownedBits_and_errDefined e (frameBits_and_errFrameOwned st mismatch)
  rw [finishRead_err, readErr, h, hstatus, BitVec.or_assoc, statusBits_or_pecBits, hbits, hbits, suppress_ownedBits]

/-- ERR after FRAME.WRITE's broadcast rule, from what it was at BusEnd's answer (R118, R127). -/
theorem finishWrite_err_of_status {s : State} {e st : Byte} (h : s.err = e &&& errHostOwned ||| statusBits st) :
    (finishWrite s).err = e &&& errHostOwned ||| frameErr Config.pBcastSuppressMask st false s.xfer.a := by
  rw [finishWrite_err, readErr, h, ownedBits_and_errDefined e (statusBits_and_errFrameOwned st), ← frameBits_match,
    suppress_ownedBits]

/-- R127's function has frame-owned bits only. -/
theorem frameErr_and_errFrameOwned (mask st : Byte) (mismatch : Bool) (a : BusAddr) :
    frameErr mask st mismatch a &&& errFrameOwned = frameErr mask st mismatch a :=
  suppressBroadcast_and_errFrameOwned mask a (frameBits_and_errFrameOwned st mismatch)

/-- A frame command keeps SEM and CORRUPT (R25). -/
theorem ownedBits_and_errHostOwned (e : Byte) {x : Byte} (hx : x &&& errFrameOwned = x) :
    (e &&& errHostOwned ||| x) &&& errHostOwned = e &&& errHostOwned := by
  rw [← hx, BitVec.and_or_distrib_right, BitVec.and_assoc, BitVec.and_assoc,
    show errFrameOwned &&& errHostOwned = 0#8 from rfl, BitVec.and_zero, BitVec.or_zero]
  rfl

/-- The host's bits are not among the transport bits. -/
theorem ownedBits_and_errTransport (e x : Byte) : (e &&& errHostOwned ||| x) &&& errTransport = x &&& errTransport := by
  rw [BitVec.and_or_distrib_right, BitVec.and_assoc, show errHostOwned &&& errTransport = 0#8 from rfl, BitVec.and_zero,
    BitVec.zero_or]

/-- The host's bits are not PEC. -/
theorem ownedBits_pec (e x : Byte) : (e &&& errHostOwned ||| x)[4] = x[4] := by
  simp [errHostOwned]

/-- At the broadcast address the transport bits lose ADDR_NACK and DATA_NACK (R120). -/
theorem frameErr_and_errTransport_broadcast (st : Byte) (mismatch : Bool) :
    frameErr Config.pBcastSuppressMask st mismatch Config.pBcastAddr &&& errTransport = statusBits st &&& 0x09#8 := by
  rw [← frameBits_and_errTransport st mismatch, frameErr_eq_suppress, suppressBroadcast, if_pos rfl, BitVec.and_assoc,
    BitVec.and_assoc]
  rfl

/-- At any other address they are the status's. -/
theorem frameErr_and_errTransport_other (st : Byte) (mismatch : Bool) {a : BusAddr} (ha : a ≠ Config.pBcastAddr) :
    frameErr Config.pBcastSuppressMask st mismatch a &&& errTransport = statusBits st := by
  rw [frameErr_eq_suppress, suppressBroadcast, if_neg ha, frameBits_and_errTransport]

/-- The broadcast rule leaves PEC (R120). -/
theorem frameErr_pec (st : Byte) (mismatch : Bool) (a : BusAddr) :
    (frameErr Config.pBcastSuppressMask st mismatch a)[4] = mismatch := by
  rw [frameErr_eq_suppress, suppressBroadcast]
  split
  · simp [frameBits_pec, Config.pBcastSuppressMask]
  · exact frameBits_pec st mismatch

end Sys2Proof.Machine
end

section
/-! The frame commands whose bus agent answers: FRAME.READ to TURN and from there to its end, FRAME.WRITE to its end
(41_frame_builder.md R114, R118). -/

namespace Sys2Proof.Machine

/-- Answers in a row are moves in a row. -/
theorem takeMoves_of_busAnswers {n : Nat} {bytes : List Byte} {s t : State} (h : busAnswers n s = some (bytes, t)) :
    takeMoves (bytes.map some) s = some t := by
  induction n generalizing bytes s with
  | zero => cases h; rfl
  | succ n ih =>
    unfold busAnswers at h
    split at h
    · rename_i b s1 hm
      split at h
      · rename_i rest s2 hr
        cases h
        exact takeMoves_cons.mpr ⟨s1, hm, ih hr⟩
      · cases h
    · cases h

/-- FRAME.READ with BUSY = 0 is accepted and goes on. -/
theorem exec_frameRead {s : State} (c : Byte) (hb : s.busy = false) :
    exec (.frameRead c) s = .next (goOn (acceptRead c s)) := by
  simp [exec, execFrameRead, hb]

/-- FRAME.WRITE with BUSY = 0 is accepted and goes on. -/
theorem exec_frameWrite {s : State} (c : Byte) (v : Value) (hb : s.busy = false) :
    exec (.frameWrite c v) s = .next (goOn (acceptWrite c v s)) := by
  simp [exec, execFrameWrite, hb]

/-- FRAME.READ whose BusEnd is answered comes to TURN in the transition that accepts it (R114, R121, R125). -/
theorem exec_frameRead_answered {s s1 : State} {st : Byte} (c : Byte) (hb : s.busy = false)
    (hm : takeMove s = (some st, s1)) : exec (.frameRead c) s = .next (readTurn c st s s1) := by
  have hm' := takeMove_transport (u := acceptRead c s) hm rfl rfl
  rw [exec_frameRead c hb, goOn_busy rfl, frameSteps, frameRun_waits 4 (frameStep_status_read rfl rfl hm'),
    takeMove_eta hm, Host.Outcome.next.injEq]
  apply State.ext
  case err => exact endWritePhase_err_of_clear st rfl
  all_goals simp [readTurn]

/-- A FRAME.READ whose three bytes have been answered, before its end-of-command updates; `turn` is the state it was in
TURN, `moved` that state with the moves taken (R115). -/
def bytesReceived (lo hi pec : Byte) (turn moved : State) : State :=
  { moved with
    phase := .done
    xfer := { turn.xfer with lo := lo, hi := hi, pec := pec, awaits := .pec }
    busLog := turn.busLog ++ [.wait Config.tTurnaround, .busRequest turn.xfer.a 3, .busRead, .answer lo, .busRead,
      .answer hi, .busRead, .answer pec] }

/-- From TURN, three answers take FRAME.READ to its end in one go (R114, R115). -/
theorem goOn_turn_answered {t moved : State} {lo hi pec : Byte} (hb : t.busy = true) (hp : t.phase = .turn)
    (hk : t.xfer.kind = .read) (ha : t.xfer.awaits = .lo)
    (hm : takeMoves [some lo, some hi, some pec] t = some moved) :
    goOn t = finishRead (bytesReceived lo hi pec t moved) := by
  obtain ⟨t1, m1, h1⟩ := takeMoves_cons.mp hm
  obtain ⟨t2, m2, h2⟩ := takeMoves_cons.mp h1
  obtain ⟨t3, m3, h3⟩ := takeMoves_cons.mp h2
  cases h3
  have hmoved := takeMoves_eta hm
  rw [goOn_busy hb, frameSteps, frameRun_moved 4 (frameStep_turn hp)]
  refine Eq.trans (frameRun_moved 3 (frameStep_byte rfl (takeMove_transport m1 rfl rfl))) ?_
  refine Eq.trans (congrArg (frameRun 3) (receiveByte_lo ha)) ?_
  refine Eq.trans (frameRun_moved 2 (frameStep_byte rfl (takeMove_transport m2 rfl rfl))) ?_
  refine Eq.trans (congrArg (frameRun 2) (receiveByte_hi rfl)) ?_
  refine Eq.trans (frameRun_moved 1 (frameStep_byte rfl (takeMove_transport m3 rfl rfl))) ?_
  refine Eq.trans (congrArg (frameRun 1) (receiveByte_pec rfl)) ?_
  refine Eq.trans (frameRun_moved 0 (frameStep_done_read rfl hk)) ?_
  refine congrArg finishRead (State.ext_iff.mpr ?_)
  rw [hmoved]
  simp [bytesReceived, Config.pReadLen]

/-- A command and one step after it. -/
theorem runCommand_one {i : Instr} {s u t : State} (he : exec i s = .next u) (hs : step u = .next t) :
    runCommand i 1 s = .next t := by
  simp [runCommand, runSteps, he, hs]

/-- FRAME.READ whose four answers come, with no reset in TURN: the step after the one that accepts it completes it
(R114, R125). -/
theorem runCommand_frameRead_answered {s moved : State} {st lo hi pec : Byte} (c : Byte) (hb : s.busy = false)
    (ha : busAnswers 4 s = some ([st, lo, hi, pec], moved)) (hr : ¬ ResetNext s) :
    runCommand (.frameRead c) 1 s =
      .next (readDone c st lo hi pec s { moved with host := afterQuiet 1 s.host }) := by
  obtain ⟨s1, hm, hms⟩ := takeMoves_cons.mp (takeMoves_of_busAnswers ha)
  have hhost : (readTurn c st s s1).host = s.host := (takeMove_same hm).host
  have hgo := goOn_turn_answered (t := readTurn c st s s1) rfl rfl rfl rfl (takeMoves_transport hms rfl rfl)
  refine runCommand_one (exec_frameRead_answered c hb hm) ((step_busy rfl (by rwa [ResetNext, hhost])).trans ?_)
  rw [hgo, hhost, takeMoves_eta hms, takeMove_eta hm, Host.Outcome.next.injEq]
  apply State.ext
  case err => exact finishRead_err_of_status rfl
  all_goals simp [readDone, bytesReceived, readTurn, readPecBytes, joinBytes, readEvents]

/-- FRAME.WRITE whose BusEnd is answered completes in the transition that accepts it (R118). -/
theorem exec_frameWrite_answered {s moved : State} {st : Byte} (c : Byte) (v : Value) (hb : s.busy = false)
    (hm : takeMove s = (some st, moved)) : exec (.frameWrite c v) s = .next (writeDone c v st s moved) := by
  have hm' := takeMove_transport (u := acceptWrite c v s) hm rfl rfl
  rw [exec_frameWrite c v hb, goOn_busy rfl, frameSteps, frameRun_moved 4 (frameStep_status_write rfl rfl hm'),
    frameRun_moved 3 (frameStep_done_write rfl rfl), frameRun_waits 2 (frameStep_idle rfl), takeMove_eta hm,
    Host.Outcome.next.injEq]
  apply State.ext
  case err => exact finishWrite_err_of_status (endWritePhase_err_of_clear st rfl)
  all_goals simp [writeDone, writePecBytes, lowByte, highByte, writeEvents]

/-- FRAME.WRITE whose bus agent stays silent waits at its BusEnd, with every primitive issued (R119, R123). -/
theorem exec_frameWrite_silent {s s1 : State} (c : Byte) (v : Value) (hb : s.busy = false)
    (hm : takeMove s = (none, s1)) :
    exec (.frameWrite c v) s = .next { acceptWrite c v s with busIn := s1.busIn, busDraws := s1.busDraws } := by
  have hm' := takeMove_transport (u := acceptWrite c v s) hm rfl rfl
  rw [exec_frameWrite c v hb, goOn_busy rfl, frameSteps, frameRun_waits 4 (frameStep_silent (.inl rfl) hm')]

end Sys2Proof.Machine
end

section
/-! Proofs of the statements about the frame commands' bus events, FRAME.READ's result and the broadcast rule
(41_frame_builder.md R115 to R121). -/

namespace Sys2Proof.Machine

/-- How many events of R115's sequence stand in the log: none of TURN's before TURN ends, and in R_PHASE up to the
BusRead that waits. -/
def readEventCount : Phase → RxByte → Nat
  | .wPhase, _ => 3
  | .turn, _ => 4
  | .rPhase, .lo => 7
  | .rPhase, .hi => 9
  | .rPhase, .pec => 11
  | .done, _ => 12
  | .idle, _ => 12

/-- The state is in a FRAME.READ of c at address a, or after it, and what the command has added to `log`, the log at its
start, is the part of R115's sequence that belongs to the place it is at. -/
def ReadLogged (log : List BusEvent) (a : BusAddr) (c : Byte) (s : State) : Prop :=
  s.xfer.kind = .read ∧ s.xfer.a = a ∧ (s.phase = .wPhase ∨ s.phase = .turn → s.xfer.awaits = .lo) ∧
    ∃ st lo hi pec, s.busLog = log ++ (readEvents a c st lo hi pec).take (readEventCount s.phase s.xfer.awaits)

/-- Accepting FRAME.READ logs the write phase's primitives. -/
theorem readLogged_acceptRead (c : Byte) (s : State) : ReadLogged s.busLog s.addr c (acceptRead c s) :=
  ⟨rfl, rfl, fun _ => rfl, 0, 0, 0, 0, rfl⟩

/-- A move of the bus agent is not logged until the block takes it in. -/
theorem readLogged_takeMove {log : List BusEvent} {a : BusAddr} {c : Byte} {s s1 : State} {m : Option Byte}
    (hm : takeMove s = (m, s1)) (h : ReadLogged log a c s) : ReadLogged log a c s1 := by
  obtain ⟨bi, bd, rfl⟩ := takeMove_eq hm
  exact h

/-- The answer of BusEnd is the fourth event. -/
theorem readLogged_endWritePhase {log : List BusEvent} {a : BusAddr} {c : Byte} {s : State} (st : Byte)
    (hp : s.phase = .wPhase) (h : ReadLogged log a c s) : ReadLogged log a c (endWritePhase st s) := by
  obtain ⟨hk, ha, haw, _, lo, hi, pec, hlog⟩ := h
  have hturn : (endWritePhase st s).phase = .turn := by simp [hk]
  refine ⟨hk, ha, fun _ => haw (.inl hp), st, lo, hi, pec, ?_⟩
  rw [hturn, endWritePhase_busLog, hlog, hp]
  simp [readEvents, readEventCount]

/-- The end of TURN issues the wait, the request and the first BusRead. -/
theorem readLogged_startReadPhase {log : List BusEvent} {a : BusAddr} {c : Byte} {s : State}
    (hp : s.phase = .turn) (h : ReadLogged log a c s) : ReadLogged log a c (startReadPhase s) := by
  obtain ⟨hk, rfl, haw, st, lo, hi, pec, hlog⟩ := h
  refine ⟨hk, rfl, by simp, st, lo, hi, pec, ?_⟩
  rw [startReadPhase_busLog, startReadPhase_xfer, haw (.inr hp), hlog, hp]
  simp [readEvents, readEventCount, Config.pReadLen]

/-- Each answer of a BusRead is the next event, with the next BusRead after it if there is one. -/
theorem readLogged_receiveByte {log : List BusEvent} {a : BusAddr} {c : Byte} {s : State} (b : Byte)
    (hp : s.phase = .rPhase) (h : ReadLogged log a c s) : ReadLogged log a c (receiveByte b s) := by
  obtain ⟨hk, ha, -, st, lo, hi, pec, hlog⟩ := h
  cases haw : s.xfer.awaits with
  | lo =>
    rw [receiveByte_lo haw]
    refine ⟨hk, ha, by simp [hp], st, b, hi, pec, ?_⟩
    simp [hlog, hp, haw, readEvents, readEventCount]
  | hi =>
    rw [receiveByte_hi haw]
    refine ⟨hk, ha, by simp [hp], st, lo, b, pec, ?_⟩
    simp [hlog, hp, haw, readEvents, readEventCount]
  | pec =>
    rw [receiveByte_pec haw]
    refine ⟨hk, ha, by simp, st, lo, hi, b, ?_⟩
    simp [hlog, hp, haw, readEvents, readEventCount]

/-- The end-of-command updates log nothing. -/
theorem readLogged_finishRead {log : List BusEvent} {a : BusAddr} {c : Byte} {s : State}
    (hp : s.phase = .done) (h : ReadLogged log a c s) : ReadLogged log a c (finishRead s) := by
  obtain ⟨hk, ha, -, st, lo, hi, pec, hlog⟩ := h
  exact ⟨hk, ha, by simp, st, lo, hi, pec, by simpa [hp, readEventCount] using hlog⟩

/-- A move of the bus agent does not change PHASE. -/
theorem takeMove_phase {s s1 : State} {m : Option Byte} (hm : takeMove s = (m, s1)) : s1.phase = s.phase := by
  obtain ⟨bi, bd, rfl⟩ := takeMove_eq hm
  rfl

/-- Nor the bus log. -/
theorem takeMove_busLog {s s1 : State} {m : Option Byte} (hm : takeMove s = (m, s1)) : s1.busLog = s.busLog := by
  obtain ⟨bi, bd, rfl⟩ := takeMove_eq hm
  rfl

/-- A step of the frame builder keeps the log a first part of R115's sequence. -/
theorem readLogged_frameStep {log : List BusEvent} {a : BusAddr} {c : Byte} {s t : State}
    (hf : frameStep s = .moved t ∨ frameStep s = .waits t) (h : ReadLogged log a c s) : ReadLogged log a c t := by
  have hk : s.xfer.kind ≠ .write := by simp [h.1]
  rcases frameStep_cases s with ⟨-, e⟩ | ⟨s1, -, m, e⟩ | ⟨st, s1, hp, m, ⟨-, e⟩ | ⟨hw, e⟩⟩ | ⟨hp, e⟩ | ⟨s1, -, m, e⟩ |
      ⟨b, s1, hp, m, e⟩ | ⟨hp, -, e⟩ | ⟨-, hw, e⟩ <;> rw [e] at hf <;> rcases hf with hf | hf <;> cases hf
  · exact h
  · exact readLogged_takeMove m h
  · exact readLogged_endWritePhase st ((takeMove_phase m).trans hp) (readLogged_takeMove m h)
  · exact absurd hw hk
  · exact readLogged_startReadPhase hp h
  · exact readLogged_takeMove m h
  · exact readLogged_receiveByte b ((takeMove_phase m).trans hp) (readLogged_takeMove m h)
  · exact readLogged_finishRead hp h
  · exact absurd hw hk

/-- Going on with the command keeps it so, any number of times. -/
theorem readLogged_goOn_iterate {log : List BusEvent} {a : BusAddr} {c : Byte} {s : State} (h : ReadLogged log a c s)
    (k : Nat) : ReadLogged log a c (goOn^[k] s) := by
  refine Function.Iterate.rec _ h (fun s h => ?_) k
  unfold goOn
  split
  · exact frameRun_keeps (fun _ _ hf => readLogged_frameStep (.inl hf)) (fun _ _ hf => readLogged_frameStep (.inr hf))
      _ _ h
  · exact h

/-- A step of the frame builder only adds to the bus log. -/
theorem frameStep_busLog_prefix {s t : State} (hf : frameStep s = .moved t ∨ frameStep s = .waits t) :
    s.busLog <+: t.busLog := by
  rcases frameStep_cases s with ⟨-, e⟩ | ⟨s1, -, m, e⟩ | ⟨st, s1, -, m, ⟨-, e⟩ | ⟨-, e⟩⟩ | ⟨-, e⟩ | ⟨s1, -, m, e⟩ |
      ⟨b, s1, -, m, e⟩ | ⟨-, -, e⟩ | ⟨-, -, e⟩ <;> rw [e] at hf <;> rcases hf with hf | hf <;> cases hf
  · exact List.prefix_rfl
  · rw [takeMove_busLog m]
  · simp [takeMove_busLog m]
  · simp [takeMove_busLog m]
  · simp
  · rw [takeMove_busLog m]
  · rw [← takeMove_busLog m]
    unfold receiveByte
    split <;> simp
  · simp
  · simp

/-- So does any number of its steps. -/
theorem frameRun_busLog_prefix (n : Nat) (s : State) : s.busLog <+: (frameRun n s).busLog :=
  frameRun_keeps (P := fun u => s.busLog <+: u.busLog) (fun _ _ hf h => h.trans (frameStep_busLog_prefix (.inl hf)))
    (fun _ _ hf h => h.trans (frameStep_busLog_prefix (.inr hf))) n s List.prefix_rfl

/-- With no reset in TURN the next step begins the read phase, whatever the status was and whatever the bus agent does
then (R121). -/
theorem step_readTurn {s s1 : State} {st : Byte} (c : Byte) (hm : takeMove s = (some st, s1)) (hr : ¬ ResetNext s) :
    ∃ t, step (readTurn c st s s1) = .next t ∧ (startReadPhase (readTurn c st s s1)).busLog <+: t.busLog := by
  have hhost : (readTurn c st s s1).host = s.host := (takeMove_same hm).host
  have hgo : goOn (readTurn c st s s1) = frameRun 4 (startReadPhase (readTurn c st s s1)) := by
    rw [goOn_busy rfl, frameSteps, frameRun_moved 4 (frameStep_turn rfl)]
  refine ⟨_, step_busy rfl (by rwa [ResetNext, hhost]), ?_⟩
  rw [hgo]
  exact frameRun_busLog_prefix 4 _

/-- Settles O30: the log stays a first part of R115's sequence because every step of the frame builder adds the events
of the place it leaves; a completed read has logged all of it. -/
theorem frameReadBusSequence : Obligations.FrameReadBusSequence := by
  unfold Obligations.FrameReadBusSequence
  constructor
  · intro c s u k he
    obtain ⟨-, rfl⟩ := execFrameRead_next he
    have hlogged := readLogged_goOn_iterate (readLogged_acceptRead c s) (k + 1)
    obtain ⟨-, -, -, st, lo, hi, pec, hlog⟩ := hlogged
    exact ⟨st, lo, hi, pec, _, hlog, List.take_prefix _ _⟩
  · intro c s st lo hi pec moved hb ha hr
    exact ⟨_, _, runCommand_frameRead_answered c hb ha hr, rfl, rfl⟩

/-- ERR after a completed frame command: the host's bits are kept, the transport bits are the status's but for the two
that the broadcast rule clears, PEC is the mismatch (R116, R120). -/
theorem ownedBits_frameErr (e st : Byte) (mismatch : Bool) (a : BusAddr) :
    let err := e &&& errHostOwned ||| frameErr Config.pBcastSuppressMask st mismatch a
    (err &&& errHostOwned = e &&& errHostOwned ∧ (a = 0x00#7 → err &&& errTransport = statusBits st &&& 0x09#8) ∧
      (a ≠ 0x00#7 → err &&& errTransport = statusBits st)) ∧ err[4] = mismatch := by
  intro err
  refine ⟨⟨?_, fun ha => ?_, fun ha => ?_⟩, ?_⟩
  · exact ownedBits_and_errHostOwned e (frameErr_and_errFrameOwned _ st mismatch a)
  · subst ha
    exact (ownedBits_and_errTransport e _).trans (frameErr_and_errTransport_broadcast st mismatch)
  · exact (ownedBits_and_errTransport e _).trans (frameErr_and_errTransport_other st mismatch ha)
  · exact (ownedBits_pec e _).trans (frameErr_pec st mismatch a)

/-- ERR.PEC after a completed FRAME.READ (R116). -/
theorem readDone_pec (c st lo hi pec : Byte) (s moved : State) :
    (readDone c st lo hi pec s moved).err[4] = true ↔
      crc8 s.crcPoly [writeAddrByte s.addr, c, readAddrByte s.addr, lo, hi] ≠ pec := by
  have herr := (ownedBits_frameErr s.err st
    (crc8 s.crcPoly [writeAddrByte s.addr, c, readAddrByte s.addr, lo, hi] ≠ pec) s.addr).2
  exact (Bool.eq_iff_iff.mp herr).trans decide_eq_true_iff

/-- Settles O31: the PEC bit of a completed read is the comparison, which the broadcast rule leaves. -/
theorem frameReadPecValidation : Obligations.FrameReadPecValidation := by
  unfold Obligations.FrameReadPecValidation
  refine ⟨fun c s st lo hi pec moved hb hpoly ha hr => ?_, by decide +kernel⟩
  rw [← hpoly]
  exact ⟨_, runCommand_frameRead_answered c hb ha hr, readDone_pec ..⟩

/-- Two bytes joined (R14). -/
theorem joinBytes_toNat (hi lo : Byte) : (joinBytes hi lo).toNat = hi.toNat * 256 + lo.toNat := by
  rw [joinBytes, BitVec.toNat_append, ← Nat.shiftLeft_add_eq_or_of_lt lo.isLt, Nat.shiftLeft_eq]

/-- Settles O32: a completed read shows the two bytes joined, and nothing of ERR comes into it. -/
theorem frameReadReturnsValueAlways : Obligations.FrameReadReturnsValueAlways := by
  unfold Obligations.FrameReadReturnsValueAlways
  intro c s st lo hi pec moved hb ha hr
  exact ⟨_, runCommand_frameRead_answered c hb ha hr, joinBytes_toNat hi lo⟩

/-- Settles O33: BusEnd's answer takes the read to TURN with its status recorded, and the step after TURN begins the
read phase. -/
theorem failedWritePhaseStillReads : Obligations.FailedWritePhaseStillReads := by
  unfold Obligations.FailedWritePhaseStillReads
  constructor
  · intro c s st s1 hb hm
    have hstatus := (ownedBits_and_errTransport s.err _).trans (statusBits_and_errTransport st)
    refine ⟨_, exec_frameRead_answered c hb hm, rfl, hstatus, fun hr => ?_⟩
    obtain ⟨t, ht, more, hlog⟩ := step_readTurn c hm hr
    refine ⟨t, more, ht, ?_⟩
    simp [← hlog, readTurn, Config.pReadLen]
  · intro c s st lo hi pec moved hb ha hr
    exact ⟨_, runCommand_frameRead_answered c hb ha hr, rfl⟩

/-- Settles O35: every primitive is issued when the command is accepted; the bus agent's move, an answer or silence,
adds at most the status. -/
theorem frameWriteBusSequence : Obligations.FrameWriteBusSequence := by
  unfold Obligations.FrameWriteBusSequence
  intro c v s hb lo hi
  rcases hm : takeMove s with ⟨_ | st, s1⟩
  · exact ⟨_, _, exec_frameWrite_silent c v hb hm, rfl, rfl⟩
  · exact ⟨_, _, exec_frameWrite_answered c v hb hm, rfl, rfl⟩

/-- Settles O36: both commands end with R127's ERR beside the host's bits, and a write has no PEC comparison. -/
theorem broadcastSuppression : Obligations.BroadcastSuppression := by
  unfold Obligations.BroadcastSuppression
  intro policy
  constructor
  · intro c s st lo hi pec moved hb ha hr
    exact ⟨_, runCommand_frameRead_answered c hb ha hr, (ownedBits_frameErr s.err st _ s.addr).1, readDone_pec ..⟩
  · intro c v s st moved hb ha
    obtain ⟨s1, hm, hnil⟩ := takeMoves_cons.mp (takeMoves_of_busAnswers ha)
    exact ⟨_, exec_frameWrite_answered c v hb hm, ownedBits_frameErr s.err st false s.addr⟩

end Sys2Proof.Machine
end

section
/-! Proofs of the statements about register access (42_register_access.md R140 to R145): what REG.READ and REG.WRITE answer,
ERR's seven defined bits through a write, and the address a frame command begins with. -/

namespace Sys2Proof.Machine

/-- REG.READ with BUSY = 0 shows the register's value (R140). -/
theorem exec_regRead {i : Byte} {w : Value} {s : State} (hb : s.busy = false) (hv : regValue i s = some w) :
    exec (.regRead i) s = .next { s with resp := w } := by
  simp [exec, execRegRead, setResp, hb, hv]

/-- REG.WRITE with BUSY = 0 makes the register write and clears RESP (R142). -/
theorem exec_regWrite {i : Byte} {v : Value} {s s1 : State} (hb : s.busy = false) (hs : regStore i v s = some s1) :
    exec (.regWrite i v) s = .next { s1 with resp := 0x0000#16 } := by
  simp [exec, execRegWrite, setResp, hb, hs]

/-- A write to a read-only register stores nothing (R145). -/
theorem regStore_readOnly {i : Byte} (v : Value) (s : State)
    (hi : i = 0x00#8 ∨ i = 0x01#8 ∨ i = 0x04#8 ∨ i = 0x05#8) : regStore i v s = some s := by
  rcases hi with rfl | rfl | rfl | rfl <;> rfl

/-- v[6:0] as a byte is v's low byte under the mask of ERR's defined bits (R25, R144). -/
theorem low7_eq_and_errDefined (v : Value) : (v.extractLsb' 0 7).setWidth 8 = v.setWidth 8 &&& errDefined := by
  ext i hi
  interval_cases i <;> simp [errDefined]

/-- ERR shows its defined bits only, so masking what it shows changes nothing (R25). -/
theorem readErr_and_errDefined (s : State) : readErr s &&& errDefined = readErr s := by
  simp [readErr, BitVec.and_assoc]

/-- REG.WRITE of ADDR with BUSY = 0 replaces the address (R143). -/
theorem exec_regWrite_addr (v : Value) {s : State} (hb : s.busy = false) :
    exec (.regWrite 0x02#8 v) s = .next { s with addr := v.extractLsb' 0 7, resp := 0x0000#16 } := by
  rw [exec_regWrite hb rfl]

/-- REG.WRITE of ERR with BUSY = 0 replaces the seven defined bits (R144). -/
theorem exec_regWrite_err (v : Value) {s : State} (hb : s.busy = false) :
    exec (.regWrite 0x03#8 v) s = .next { s with err := (v.extractLsb' 0 7).setWidth 8, resp := 0x0000#16 } := by
  rw [exec_regWrite hb rfl, writeErr, low7_eq_and_errDefined, BitVec.and_assoc, BitVec.and_self]

/-- Writing back what ERR shows with a defined bit added sets that bit beside the old ones (R144). -/
theorem exec_regWrite_err_or {bit : Byte} (hbit : bit &&& errDefined = bit) {s : State} (hb : s.busy = false) :
    exec (.regWrite 0x03#8 (zext16 (readErr s) ||| zext16 bit)) s =
      .next { s with err := readErr s ||| bit, resp := 0x0000#16 } := by
  have hlow : (zext16 (readErr s) ||| zext16 bit).setWidth 8 = readErr s ||| bit := by
    simp [zext16, BitVec.setWidth_or]
  rw [exec_regWrite_err _ hb, low7_eq_and_errDefined, hlow, BitVec.and_or_distrib_right, readErr_and_errDefined, hbit]

/-- Going on with a frame command only adds to the bus log. -/
theorem goOn_busLog_prefix (s : State) : s.busLog <+: (goOn s).busLog := by
  unfold goOn
  split
  · exact frameRun_busLog_prefix _ s
  · exact List.prefix_rfl

/-- From BUSY = 0 FRAME.READ begins with BusBegin of ADDR (R115). -/
theorem exec_frameRead_busBegin {s : State} (c : Byte) (hb : s.busy = false) :
    ∃ u more, exec (.frameRead c) s = .next u ∧ u.busLog = s.busLog ++ .busBegin s.addr :: more := by
  obtain ⟨more, hlog⟩ := goOn_busLog_prefix (acceptRead c s)
  exact ⟨_, _, exec_frameRead c hb, by rw [← hlog, acceptRead_busLog, List.append_assoc]; rfl⟩

/-- From BUSY = 0 FRAME.WRITE begins with BusBegin of ADDR (R119). -/
theorem exec_frameWrite_busBegin {s : State} (c : Byte) (v : Value) (hb : s.busy = false) :
    ∃ u more, exec (.frameWrite c v) s = .next u ∧ u.busLog = s.busLog ++ .busBegin s.addr :: more := by
  obtain ⟨more, hlog⟩ := goOn_busLog_prefix (acceptWrite c v s)
  exact ⟨_, _, exec_frameWrite c v hb, by rw [← hlog, acceptWrite_busLog, List.append_assoc]; rfl⟩

/-- Settles O45: REG.WRITE stores v[6:0] in ADDR with the bus log as it was, and both frame commands begin with BusBegin
of ADDR. -/
theorem regWriteAddr : Obligations.RegWriteAddr := by
  unfold Obligations.RegWriteAddr
  intro v s hb t
  refine ⟨exec_regWrite_addr v hb, fun c x => ⟨?_, ?_⟩⟩
  · exact exec_frameRead_busBegin (s := t) c hb
  · exact exec_frameWrite_busBegin (s := t) c x hb

/-- Settles O44: `regValue` of each index is the register, zero-extended. -/
theorem regReadShowsRegister : Obligations.RegReadShowsRegister := by
  unfold Obligations.RegReadShowsRegister
  intro s hb
  have hpoly : exec (.regRead 0x01#8) s = .next { s with resp := s.crcPoly.setWidth 16 } := exec_regRead hb rfl
  refine ⟨exec_regRead hb rfl, hpoly, fun h => ?_, exec_regRead hb rfl, exec_regRead hb rfl, exec_regRead hb rfl,
    exec_regRead hb rfl⟩
  rw [hpoly, h]
  rfl

/-- Settles O46: the write takes v[6:0]; SEM and CORRUPT are defined bits, so writing back what was read adds just them. -/
theorem regWriteErr : Obligations.RegWriteErr := by
  unfold Obligations.RegWriteErr
  intro v s hb
  refine ⟨exec_regWrite_err v hb, exec_regWrite_err 0x0000#16 hb, fun r hr => ?_⟩
  rw [exec_regRead hb rfl] at hr
  cases hr
  exact ⟨exec_regWrite_err_or (bit := errSem) rfl hb, exec_regWrite_err_or (bit := errCorrupt) rfl hb⟩

/-- Settles O47: the store keeps the state, so only RESP is written. -/
theorem regWriteReadOnlyHasNoEffect : Obligations.RegWriteReadOnlyHasNoEffect := by
  unfold Obligations.RegWriteReadOnlyHasNoEffect
  intro v s hb i hi
  exact exec_regWrite hb (regStore_readOnly v s hi)

end Sys2Proof.Machine
end

section
/-! Proofs of the statements about what the four immediate commands leave unchanged and which register indices they take
(40_crc_engine.md section 2; 42_register_access.md), and what every command makes of CRC_ACC and the host's events. -/

namespace Sys2Proof.Machine

/-- The immediate commands write CRC_ACC, ADDR, ERR and RESP only: everything else is the same in both states. -/
structure SameOutsideImmediate (s t : State) : Prop where
  busy : t.busy = s.busy
  phase : t.phase = s.phase
  fbAcc : t.fbAcc = s.fbAcc
  xfer : t.xfer = s.xfer
  lastCrc : t.lastCrc = s.lastCrc
  lastPec : t.lastPec = s.lastPec
  crcPoly : t.crcPoly = s.crcPoly
  host : t.host = s.host
  busIn : t.busIn = s.busIn
  busDraws : t.busDraws = s.busDraws
  busLog : t.busLog = s.busLog

/-- A register write stores to ADDR or ERR or nothing. -/
theorem regStore_same {i : Byte} {v : Value} {s t : State} (h : regStore i v s = some t) :
    SameOutsideImmediate s { t with resp := 0x0000#16 } := by
  rcases regStore_cases h with rfl | ⟨-, rfl⟩ | ⟨-, rfl⟩ <;> constructor <;> rfl

/-- The frame of the four immediate commands. -/
theorem exec_immediate_same {i : Instr} {s t : State} (hi : isFrame i = false) (h : exec i s = .next t) :
    SameOutsideImmediate s t := by
  cases i with
  | crcReset => obtain ⟨-, rfl⟩ := execCrcReset_next h; constructor <;> rfl
  | crcUpdate b => obtain ⟨-, rfl⟩ := execCrcUpdate_next h; constructor <;> rfl
  | frameRead c => cases hi
  | frameWrite c v => cases hi
  | regRead r => obtain ⟨-, v, -, rfl⟩ := execRegRead_next h; constructor <;> rfl
  | regWrite r v => obtain ⟨-, s1, hs, rfl⟩ := execRegWrite_next h; exact regStore_same hs

/-- Every command that answers a next state was presented with BUSY = 0 (R183). -/
theorem exec_next_ready {i : Instr} {s t : State} (h : exec i s = .next t) : s.busy = false := by
  cases i with
  | crcReset => exact (execCrcReset_next h).1
  | crcUpdate b => exact (execCrcUpdate_next h).1
  | frameRead c => exact (execFrameRead_next h).1
  | frameWrite c v => exact (execFrameWrite_next h).1
  | regRead r => exact (execRegRead_next h).1
  | regWrite r v => exact (execRegWrite_next h).1

/-- No command takes an event of the host: only a step does. -/
theorem exec_host {i : Instr} {s t : State} (h : exec i s = .next t) : t.host = s.host := by
  cases i with
  | crcReset => exact (exec_immediate_same rfl h).host
  | crcUpdate b => exact (exec_immediate_same rfl h).host
  | frameRead c => obtain ⟨-, rfl⟩ := execFrameRead_next h; exact (goOn_same _).host
  | frameWrite c v => obtain ⟨-, rfl⟩ := execFrameWrite_next h; exact (goOn_same _).host
  | regRead r => exact (exec_immediate_same rfl h).host
  | regWrite r v => exact (exec_immediate_same rfl h).host

/-- Every command writes `accAfter` to CRC_ACC: the CRC commands a new value, the others the old one (R21). -/
theorem exec_crcAcc {i : Instr} {s t : State} (h : exec i s = .next t) : t.crcAcc = accAfter s.crcPoly s.crcAcc i := by
  cases i with
  | crcReset => obtain ⟨-, rfl⟩ := execCrcReset_next h; rfl
  | crcUpdate b => obtain ⟨-, rfl⟩ := execCrcUpdate_next h; rfl
  | frameRead c => obtain ⟨-, rfl⟩ := execFrameRead_next h; exact (goOn_same _).crcAcc
  | frameWrite c v => obtain ⟨-, rfl⟩ := execFrameWrite_next h; exact (goOn_same _).crcAcc
  | regRead r => obtain ⟨-, v, -, rfl⟩ := execRegRead_next h; rfl
  | regWrite r v =>
    obtain ⟨-, s1, hs, rfl⟩ := execRegWrite_next h
    rcases regStore_cases hs with rfl | ⟨-, rfl⟩ | ⟨-, rfl⟩ <;> rfl

/-- Commands outside the checksum engine leave the accumulator. -/
theorem accAfter_notCrc {i : Instr} (hi : isCrc i = false) (p acc : Byte) : accAfter p acc i = acc := by
  cases i with
  | crcReset => cases hi
  | crcUpdate b => cases hi
  | frameRead c => rfl
  | frameWrite c v => rfl
  | regRead r => rfl
  | regWrite r v => rfl

/-- ADDR after a command: what it was, or v[6:0] after REG.WRITE of index 0x02 (R143). -/
theorem exec_addr {i : Instr} {s t : State} (h : exec i s = .next t) :
    t.addr = s.addr ∨ ∃ v, i = .regWrite 0x02#8 v ∧ t.addr = v.extractLsb' 0 7 := by
  cases i with
  | crcReset => obtain ⟨-, rfl⟩ := execCrcReset_next h; exact .inl rfl
  | crcUpdate b => obtain ⟨-, rfl⟩ := execCrcUpdate_next h; exact .inl rfl
  | frameRead c => obtain ⟨-, rfl⟩ := execFrameRead_next h; exact .inl (goOn_same _).addr
  | frameWrite c v => obtain ⟨-, rfl⟩ := execFrameWrite_next h; exact .inl (goOn_same _).addr
  | regRead r => obtain ⟨-, v, -, rfl⟩ := execRegRead_next h; exact .inl rfl
  | regWrite r v =>
    obtain ⟨-, s1, hs, rfl⟩ := execRegWrite_next h
    rcases regStore_cases hs with rfl | ⟨rfl, rfl⟩ | ⟨-, rfl⟩
    · exact .inl rfl
    · exact .inr ⟨v, rfl, rfl⟩
    · exact .inl rfl

/-- ERR after an immediate command: what it was, or v[6:0] after REG.WRITE of index 0x03 (R144). -/
theorem exec_immediate_err {i : Instr} {s t : State} (hi : isFrame i = false) (h : exec i s = .next t) :
    t.err = s.err ∨ ∃ v, i = .regWrite 0x03#8 v ∧ t.err = (v.extractLsb' 0 7).setWidth 8 &&& errDefined := by
  cases i with
  | crcReset => obtain ⟨-, rfl⟩ := execCrcReset_next h; exact .inl rfl
  | crcUpdate b => obtain ⟨-, rfl⟩ := execCrcUpdate_next h; exact .inl rfl
  | frameRead c => cases hi
  | frameWrite c v => cases hi
  | regRead r => obtain ⟨-, v, -, rfl⟩ := execRegRead_next h; exact .inl rfl
  | regWrite r v =>
    obtain ⟨-, s1, hs, rfl⟩ := execRegWrite_next h
    rcases regStore_cases hs with rfl | ⟨-, rfl⟩ | ⟨rfl, rfl⟩
    · exact .inl rfl
    · exact .inl rfl
    · exact .inr ⟨v, rfl, rfl⟩

/-- Settles O49: the common frame of the four commands, and the one writer each of CRC_ACC, ADDR and ERR. -/
theorem immediateCommandsFrame : Obligations.ImmediateCommandsFrame := by
  unfold Obligations.ImmediateCommandsFrame
  intro i s t hi h
  obtain ⟨busy, phase, fbAcc, xfer, lastCrc, lastPec, crcPoly, host, busIn, busDraws, busLog⟩ := exec_immediate_same hi h
  refine ⟨busy, phase, fbAcc, xfer, lastCrc, lastPec, crcPoly, host, busIn, busDraws, busLog, fun hc => ?_, fun hn => ?_,
    fun hn => ?_⟩
  · exact (exec_crcAcc h).trans (accAfter_notCrc hc _ _)
  · exact (exec_addr h).resolve_right fun ⟨v, hv, _⟩ => hn v hv
  · exact (exec_immediate_err hi h).resolve_right fun ⟨v, hv, _⟩ => hn v hv

/-- A reserved index has no register to show (R78). -/
theorem regValue_reserved {i : Byte} (h : 5 < i.toNat) (s : State) : regValue i s = none := by
  unfold regValue
  split
  case h_7 => rfl
  all_goals omega

/-- Nor one to write (R78). -/
theorem regStore_reserved {i : Byte} (h : 5 < i.toNat) (v : Value) (s : State) : regStore i v s = none := by
  unfold regStore
  split
  case h_7 => rfl
  all_goals omega

/-- Settles O48: `regValue` and `regStore` have no value above 0x05, and the commands of a defined index are well formed. -/
theorem registerIndexRange : Obligations.RegisterIndexRange := by
  unfold Obligations.RegisterIndexRange
  intro i v s hb
  refine ⟨fun hi => ⟨?_, ?_⟩, fun hi => ?_⟩
  · simp [exec, execRegRead, hb, regValue_reserved hi s]
  · simp [exec, execRegWrite, hb, regStore_reserved hi v s]
  · have hdef : regIndexDefined i = true := decide_eq_true hi
    exact ⟨exec_wellFormed (i := .regRead i) hdef hb, exec_wellFormed (i := .regWrite i v) hdef hb⟩

end Sys2Proof.Machine
end

section
/-! Proofs of the statements about the block's invariant (10_state.md sections 2 to 5; 41_frame_builder.md section 1): it
holds at reset, and every command, every step of the frame builder and every reset keeps it. -/

namespace Sys2Proof.Machine

/-- What is masked with ERR's defined bits has bit 7 at 0 (R25). -/
theorem and_errDefined_reserved (e : Byte) : (e &&& errDefined)[7] = false := by simp [errDefined]

/-- With no frame command in progress the invariant is about CRC_POLY and ERR only. -/
theorem blockInv_idle {s : State} (hb : s.busy = false) (hp : s.phase = .idle) (hpoly : s.crcPoly = Config.pPoly)
    (herr : s.err[7] = false) : BlockInv s :=
  ⟨by simp [hb, hp], hpoly, herr, by simp [hb], by simp [hp]⟩

/-- Inside a frame command an update that keeps BUSY and what is outside the frame builder keeps the invariant, if it goes
to TURN or R_PHASE in a read only. -/
theorem blockInv_inFrame {s t : State} (h : BlockInv s) (hs : s.phase ≠ .idle) (same : SameOutsideFrame s t)
    (hb : t.busy = s.busy) (hp : t.phase ≠ .idle) (herr : t.err[7] = false)
    (hk : t.phase = .turn ∨ t.phase = .rPhase → s.xfer.kind = .read) : BlockInv t where
  busy_iff_phase := by simp [hb, hp, h.busy_iff_phase, hs]
  poly_fixed := same.crcPoly.trans h.poly_fixed
  err_reserved_zero := herr
  snapshot_is_addr hbt := by rw [same.a, same.addr, h.snapshot_is_addr (hb ▸ hbt)]
  read_phases ht := same.kind.trans (hk ht)

/-- The invariant says nothing of the outside agents' inputs. -/
theorem blockInv_inputs {s : State} (h : BlockInv s) (events : List HostEvent) (bi : List (Option Byte)) (bd : Nat) :
    BlockInv { s with host := events, busIn := bi, busDraws := bd } :=
  ⟨h.busy_iff_phase, h.poly_fixed, h.err_reserved_zero, h.snapshot_is_addr, h.read_phases⟩

theorem blockInv_takeMove {s s1 : State} {m : Option Byte} (hm : takeMove s = (m, s1)) (h : BlockInv s) : BlockInv s1 := by
  obtain ⟨bi, bd, rfl⟩ := takeMove_eq hm
  exact blockInv_inputs h s.host bi bd

theorem blockInv_endWritePhase {s : State} (st : Byte) (hp : s.phase = .wPhase) (h : BlockInv s) :
    BlockInv (endWritePhase st s) := by
  refine blockInv_inFrame h (by simp [hp]) (by constructor <;> rfl) rfl ?_ (and_errDefined_reserved _) ?_ <;>
    cases hk : s.xfer.kind <;> simp [hk]

theorem blockInv_startReadPhase {s : State} (hp : s.phase = .turn) (h : BlockInv s) : BlockInv (startReadPhase s) :=
  blockInv_inFrame h (by simp [hp]) (by constructor <;> rfl) rfl (by simp) h.err_reserved_zero
    fun _ => h.read_phases (.inl hp)

/-- A BusRead's answer leads to R_PHASE again, or to DONE. -/
theorem receiveByte_phase {s : State} (b : Byte) (hp : s.phase = .rPhase) :
    (receiveByte b s).phase = .rPhase ∨ (receiveByte b s).phase = .done := by
  cases ha : s.xfer.awaits <;> simp [receiveByte, ha, hp]

theorem blockInv_receiveByte {s : State} (b : Byte) (hp : s.phase = .rPhase) (h : BlockInv s) :
    BlockInv (receiveByte b s) := by
  refine blockInv_inFrame h (by simp [hp]) (receiveByte_same b s) (receiveByte_busy b s) ?_ ?_
    fun _ => h.read_phases (.inr hp)
  · rcases receiveByte_phase b hp with e | e <;> simp [e]
  · simpa using h.err_reserved_zero

/-- The state a step of the frame builder ends in, whether it moves on or waits: `frameStep_cases` by what is written. -/
theorem frameStep_next_cases {s t : State} (hf : frameStep s = .moved t ∨ frameStep s = .waits t) :
    (s.phase = .idle ∧ t = s) ∨ ((s.phase = .wPhase ∨ s.phase = .rPhase) ∧ takeMove s = (none, t)) ∨
      (∃ st s1, s.phase = .wPhase ∧ takeMove s = (some st, s1) ∧ t = endWritePhase st s1) ∨
      (s.phase = .turn ∧ t = startReadPhase s) ∨
      (∃ b s1, s.phase = .rPhase ∧ takeMove s = (some b, s1) ∧ t = receiveByte b s1) ∨
      (s.phase = .done ∧ s.xfer.kind = .read ∧ t = finishRead s) ∨
      (s.phase = .done ∧ s.xfer.kind = .write ∧ t = finishWrite s) := by
  rcases frameStep_cases s with ⟨hp, e⟩ | ⟨s1, hp, m, e⟩ | ⟨st, s1, hp, m, ⟨-, e⟩ | ⟨-, e⟩⟩ | ⟨hp, e⟩ | ⟨s1, hp, m, e⟩ |
      ⟨b, s1, hp, m, e⟩ | ⟨hp, hk, e⟩ | ⟨hp, hk, e⟩ <;> rw [e] at hf <;> rcases hf with hf | hf <;> cases hf
  · exact .inl ⟨hp, rfl⟩
  · exact .inr (.inl ⟨.inl hp, m⟩)
  · exact .inr (.inr (.inl ⟨st, s1, hp, m, rfl⟩))
  · exact .inr (.inr (.inl ⟨st, s1, hp, m, rfl⟩))
  · exact .inr (.inr (.inr (.inl ⟨hp, rfl⟩)))
  · exact .inr (.inl ⟨.inr hp, m⟩)
  · exact .inr (.inr (.inr (.inr (.inl ⟨b, s1, hp, m, rfl⟩))))
  · exact .inr (.inr (.inr (.inr (.inr (.inl ⟨hp, hk, rfl⟩)))))
  · exact .inr (.inr (.inr (.inr (.inr (.inr ⟨hp, hk, rfl⟩)))))

/-- Every step of the frame builder keeps the invariant. -/
theorem blockInv_frameStep {s t : State} (hf : frameStep s = .moved t ∨ frameStep s = .waits t) (h : BlockInv s) :
    BlockInv t := by
  rcases frameStep_next_cases hf with ⟨-, rfl⟩ | ⟨-, m⟩ | ⟨st, s1, hp, m, rfl⟩ | ⟨hp, rfl⟩ | ⟨b, s1, hp, m, rfl⟩ |
      ⟨-, -, rfl⟩ | ⟨-, -, rfl⟩
  · exact h
  · exact blockInv_takeMove m h
  · exact blockInv_endWritePhase st ((takeMove_phase m).trans hp) (blockInv_takeMove m h)
  · exact blockInv_startReadPhase hp h
  · exact blockInv_receiveByte b ((takeMove_phase m).trans hp) (blockInv_takeMove m h)
  · exact blockInv_idle rfl rfl h.poly_fixed (and_errDefined_reserved _)
  · exact blockInv_idle rfl rfl h.poly_fixed (and_errDefined_reserved _)

/-- What each step of the frame builder keeps, going on with a frame command keeps. -/
theorem goOn_keeps {P : State → Prop} (hstep : ∀ u v, frameStep u = .moved v ∨ frameStep u = .waits v → P u → P v)
    {s : State} (h : P s) : P (goOn s) := by
  unfold goOn
  split
  · exact frameRun_keeps (fun u v hf => hstep u v (.inl hf)) (fun u v hf => hstep u v (.inr hf)) _ _ h
  · exact h

theorem blockInv_goOn {s : State} (h : BlockInv s) : BlockInv (goOn s) := goOn_keeps (fun _ _ => blockInv_frameStep) h

theorem blockInv_acceptRead (c : Byte) {s : State} (h : BlockInv s) : BlockInv (acceptRead c s) :=
  ⟨by simp, h.poly_fixed, and_errDefined_reserved _, fun _ => rfl, by simp⟩

theorem blockInv_acceptWrite (c : Byte) (v : Value) {s : State} (h : BlockInv s) : BlockInv (acceptWrite c v s) :=
  ⟨by simp, h.poly_fixed, and_errDefined_reserved _, fun _ => rfl, by simp⟩

/-- An immediate command runs with no frame command in progress and starts none. -/
theorem blockInv_exec_immediate {i : Instr} {s t : State} (hi : isFrame i = false) (he : exec i s = .next t)
    (h : BlockInv s) : BlockInv t := by
  have same := exec_immediate_same hi he
  have hb := exec_next_ready he
  have hp : s.phase = .idle := by
    by_contra hn
    simp [h.busy_iff_phase.mpr hn] at hb
  refine blockInv_idle (same.busy.trans hb) (same.phase.trans hp) (same.crcPoly.trans h.poly_fixed) ?_
  rcases exec_immediate_err hi he with e | ⟨v, -, e⟩ <;> rw [e]
  · exact h.err_reserved_zero
  · exact and_errDefined_reserved _

/-- Every command keeps the invariant. -/
theorem blockInv_exec {i : Instr} {s t : State} (he : exec i s = .next t) (h : BlockInv s) : BlockInv t := by
  cases i with
  | crcReset => exact blockInv_exec_immediate rfl he h
  | crcUpdate b => exact blockInv_exec_immediate rfl he h
  | frameRead c => obtain ⟨-, rfl⟩ := execFrameRead_next he; exact blockInv_goOn (blockInv_acceptRead c h)
  | frameWrite c v => obtain ⟨-, rfl⟩ := execFrameWrite_next he; exact blockInv_goOn (blockInv_acceptWrite c v h)
  | regRead r => exact blockInv_exec_immediate rfl he h
  | regWrite r v => exact blockInv_exec_immediate rfl he h

/-- Settles O4: a reset ends in the reset values, and every command and every going on with one keeps the invariant. -/
theorem stepKeepsInv : Obligations.StepKeepsInv := by
  unfold Obligations.StepKeepsInv
  intro s t h hs
  rcases step_next_cases hs with ⟨rest, -, rfl⟩ | ⟨rest, -, rfl⟩ | ⟨w, rest, -, -, rfl⟩ | ⟨w, rest, i, -, -, -, he⟩ | ⟨-, rfl⟩
  · exact blockInv_idle rfl rfl rfl (by simp)
  · exact blockInv_goOn (blockInv_inputs h rest s.busIn s.busDraws)
  · exact blockInv_goOn h
  · exact blockInv_exec he (blockInv_inputs h rest s.busIn s.busDraws)
  · exact blockInv_goOn h

/-- Settles O3: nothing is in progress at reset, CRC_POLY has its reset value and ERR is 0. -/
theorem invAtReset : Obligations.InvAtReset := blockInv_idle rfl rfl rfl rfl

end Sys2Proof.Machine
end

section
/-! Proofs of the statements about encoding (30_encoding.md sections 1, 2, 4 and 5): the word of a command and back, the
bits a command's format uses, and the operands and expansions of the assembler. -/

namespace Sys2Proof

/-- Settles O9: decoding a packed word reads its fields, and a well-formed index is a defined one. -/
theorem decodeEncodeRoundTrip : Obligations.DecodeEncodeRoundTrip := by
  unfold Obligations.DecodeEncodeRoundTrip
  intro i hi
  cases i with
  | crcReset => exact decode_packWord 0 0 0x1#4
  | crcUpdate b => exact decode_packWord 0 b 0x2#4
  | frameRead c => exact decode_packWord 0 c 0x3#4
  | frameWrite c v => exact decode_packWord v c 0x4#4
  | regRead r => exact (decode_packWord 0 r 0x5#4).trans (if_pos hi)
  | regWrite r v => exact (decode_packWord v r 0x6#4).trans (if_pos hi)

/-- A word with RSV 0000 is its fields packed. -/
theorem eq_packWord_of_fieldRsv {w : CommandWord} (h : fieldRsv w = 0#4) :
    w = packWord (fieldV w) (fieldB w) (fieldOp w) := by
  apply BitVec.eq_of_getLsbD_eq
  intro i hi
  rw [getLsbD_packWord]
  have hrsv : ∀ j, j < 4 → w.getLsbD (4 + j) = false := fun j hj => by
    have := congrArg (fun x : BitVec 4 => x.getLsbD j) h
    simpa [fieldRsv, hj] using this
  by_cases h4 : i < 4
  · simp [h4, fieldOp]
  by_cases h8 : i < 8
  · have := hrsv (i - 4) (by omega)
    simpa [h4, h8, show 4 + (i - 4) = i by omega] using this
  by_cases h16 : i < 16
  · simp [h4, h8, h16, fieldB, show i - 8 < 8 by omega, show 8 + (i - 8) = i by omega]
  · simp [h4, h8, h16, fieldV, show i - 16 < 16 by omega, show 16 + (i - 16) = i by omega]

/-- The mask of a word's low n bits. -/
theorem getLsbD_lowMask (n i : Nat) (hi : i < 32) : (BitVec.ofNat 32 (2 ^ n - 1)).getLsbD i = decide (i < n) := by
  rw [BitVec.getLsbD_ofNat, Nat.testBit_two_pow_sub_one]
  simp [hi]

/-- Without its upper 24 bits a packed word has OP only. -/
theorem packWord_and_low8 (v : Value) (b : Byte) (op : BitVec 4) : packWord v b op &&& 0x000000FF#32 = packWord 0 0 op := by
  apply BitVec.eq_of_getLsbD_eq
  intro i hi
  rw [BitVec.getLsbD_and, getLsbD_packWord, getLsbD_packWord, show 0x000000FF#32 = BitVec.ofNat 32 (2 ^ 8 - 1) from rfl,
    getLsbD_lowMask 8 i hi]
  by_cases h8 : i < 8
  · simp [h8]
  · simp [h8, show ¬ i < 4 by omega]

/-- Without its upper 16 bits a packed word has OP and B only. -/
theorem packWord_and_low16 (v : Value) (b : Byte) (op : BitVec 4) :
    packWord v b op &&& 0x0000FFFF#32 = packWord 0 b op := by
  apply BitVec.eq_of_getLsbD_eq
  intro i hi
  rw [BitVec.getLsbD_and, getLsbD_packWord, getLsbD_packWord, show 0x0000FFFF#32 = BitVec.ofNat 32 (2 ^ 16 - 1) from rfl,
    getLsbD_lowMask 16 i hi]
  by_cases h16 : i < 16
  · simp [h16]
  · simp [h16, show ¬ i < 4 by omega, show ¬ i < 8 by omega]

/-- What an operation decodes to is well formed, and its word is the operation's packed word with the bits that its format
does not use cleared. -/
theorem decodeOp_command {op : BitVec 4} {b : Byte} {v : Value} {i : Instr} (h : decodeOp op b v = .command i) :
    i.wellFormed = true ∧ encode i = packWord v b op &&& Machine.usedBits i := by
  rcases decodeOp_cases h with ⟨rfl, rfl⟩ | ⟨rfl, rfl⟩ | ⟨rfl, rfl⟩ | ⟨rfl, rfl⟩ | ⟨rfl, hr, rfl⟩ | ⟨rfl, hr, rfl⟩
  · exact ⟨rfl, (packWord_and_low8 v b _).symm⟩
  · exact ⟨rfl, (packWord_and_low16 v b _).symm⟩
  · exact ⟨rfl, (packWord_and_low16 v b _).symm⟩
  · exact ⟨rfl, BitVec.and_allOnes.symm⟩
  · exact ⟨hr, (packWord_and_low16 v b _).symm⟩
  · exact ⟨hr, BitVec.and_allOnes.symm⟩

/-- Settles O10: a word that decodes is its fields packed, and the command's word keeps the fields its format uses. -/
theorem encodeOfDecodedWord : Obligations.EncodeOfDecodedWord := by
  unfold Obligations.EncodeOfDecodedWord
  intro w i h
  obtain ⟨hrsv, hop⟩ := decode_command_fields h
  have := decodeOp_command hop
  rwa [← eq_packWord_of_fieldRsv hrsv] at this

/-- Settles O13: the worked words, evaluated both ways. -/
theorem workedEncodings : Obligations.WorkedEncodings := by
  unfold Obligations.WorkedEncodings
  decide

/-- A number fits a field when it is below the field's range (R81). -/
theorem fitField_isSome (w n : Nat) : (fitField w n).isSome = true ↔ n < 2 ^ w := by
  unfold fitField
  split <;> simp [*]

/-- A field's own value fits it. -/
@[simp] theorem fitField_toNat {w : Nat} (x : BitVec w) : fitField w x.toNat = some x := by
  simp [fitField, x.isLt]

/-- A line that stands for itself is accepted when its command is. -/
theorem assemble_isSome {l : AsmLine} (h : l.expand = [l]) : (assemble l).isSome = l.command?.isSome := by
  unfold assemble
  rw [h]
  cases hc : l.command? <;> simp [hc]

/-- A command with one byte operand is accepted exactly when the byte fits. -/
theorem assemble_byte_isSome {l : AsmLine} {n : Nat} {mk : Byte → Instr} (h : l.expand = [l])
    (hc : l.command? = (fitField 8 n).map mk) : (assemble l).isSome = true ↔ n ≤ 0xFF := by
  rw [assemble_isSome h, hc, Option.isSome_map, fitField_isSome]
  omega

/-- A command with a byte and a value operand is accepted exactly when both fit. -/
theorem assemble_byteValue_isSome {l : AsmLine} {n m : Nat} {mk : Byte → Value → Instr} (h : l.expand = [l])
    (hc : l.command? =
      match fitField 8 n, fitField 16 m with
      | some b, some v => some (mk b v)
      | _, _ => none) : (assemble l).isSome = true ↔ n ≤ 0xFF ∧ m ≤ 0xFFFF := by
  have hboth : l.command?.isSome = ((fitField 8 n).isSome && (fitField 16 m).isSome) := by
    rw [hc]
    cases fitField 8 n <;> cases fitField 16 m <;> rfl
  rw [assemble_isSome h, hboth, Bool.and_eq_true, fitField_isSome, fitField_isSome]
  omega

/-- Settles O15: each of the five lines stands for itself, and its command is there exactly when its operands fit. -/
theorem assemblerRejectsOversizedOperands : Obligations.AssemblerRejectsOversizedOperands := by
  unfold Obligations.AssemblerRejectsOversizedOperands
  intro n m
  exact ⟨assemble_byte_isSome rfl rfl, assemble_byte_isSome rfl rfl, assemble_byteValue_isSome rfl rfl,
    assemble_byte_isSome rfl rfl, assemble_byteValue_isSome rfl rfl⟩

/-- The update lines of a list of bytes assemble to the bytes' words (R82). -/
theorem assemble_updates (bs : List Byte) :
    ((bs.map BitVec.toNat).map AsmLine.crcUpdate).mapM (fun x => x.command?.map encode) =
      some (bs.map fun b => encode (.crcUpdate b)) := by
  induction bs with
  | nil => rfl
  | cons b bs ih => simp only [List.map_cons, List.mapM_cons, ih]; simp [AsmLine.command?]

/-- Settles O14: the updates by induction on the bytes, an address because it fits its field, the others evaluated. -/
theorem pseudoInstructionExpansions : Obligations.PseudoInstructionExpansions := by
  unfold Obligations.PseudoInstructionExpansions
  refine ⟨assemble_updates, fun bs => ?_, fun a => ?_, by decide, by decide, by decide, by decide⟩
  · have hexpand : (AsmLine.crcFrame (bs.map BitVec.toNat)).expand =
        .crcReset :: (bs.map BitVec.toNat).map AsmLine.crcUpdate := rfl
    rw [assemble, hexpand, List.mapM_cons, assemble_updates]
    rfl
  · have haddr : fitField 8 regIndexAddr = some 0x02#8 := rfl
    simp [assemble, AsmLine.expand, AsmLine.command?, haddr]

end Sys2Proof
end

section
/-! Proofs of the statements about the checksum as a function and as a run's result (40_crc_engine.md sections 2 and 3): the
step is linear and injective under 0x07, and the machine's own steps fold the updates' bytes whatever stands between them. -/

namespace Sys2Proof.Machine

/-- One round is linear: the polynomial is added once for each of the two high bits (R97). -/
theorem crcRound_xor (p x y : Byte) : crcRound p (x ^^^ y) = crcRound p x ^^^ crcRound p y := by
  unfold crcRound
  rw [BitVec.getElem_xor, BitVec.shiftLeft_xor_distrib]
  cases x[7] <;> cases y[7]
  · rfl
  · exact BitVec.xor_assoc _ _ _
  · exact show x <<< 1 ^^^ y <<< 1 ^^^ p = x <<< 1 ^^^ p ^^^ y <<< 1 by ac_rfl
  · have twice : x <<< 1 ^^^ p ^^^ (y <<< 1 ^^^ p) = x <<< 1 ^^^ y <<< 1 ^^^ (p ^^^ p) := by ac_rfl
    rw [BitVec.xor_self, BitVec.xor_zero] at twice
    exact twice.symm

/-- So is any number of rounds. -/
theorem crcRounds_xor (p : Byte) (n : Nat) (x y : Byte) :
    crcRounds p n (x ^^^ y) = crcRounds p n x ^^^ crcRounds p n y := by
  induction n generalizing x y with
  | zero => rfl
  | succ n ih => simp only [crcRounds, crcRound_xor, ih]

/-- The step from accumulator 0 is eight rounds on the byte: the table entry of R96. -/
theorem crc8Step_zero (p x : Byte) : crc8Step p 0x00#8 x = crcRounds p 8 x := by
  rw [crc8Step_eq_rounds_xor, BitVec.zero_xor]

/-- The step as a table lookup at accumulator XOR byte (R96). -/
theorem crc8Step_eq_table (p acc b : Byte) : crc8Step p acc b = crc8Step p 0x00#8 (acc ^^^ b) :=
  (crc8Step_zero p (acc ^^^ b)).symm

/-- Settles O19: eight rounds are linear because one is; the table's basis is evaluated. -/
theorem crcStepIsLinear : Obligations.CrcStepIsLinear := by
  unfold Obligations.CrcStepIsLinear
  refine ⟨fun p x y => ?_, by decide⟩
  rw [crc8Step_zero, crc8Step_zero, crc8Step_zero, crcRounds_xor]

/-- Under a polynomial with bit 0 set, a round gives 0 for 0 only: the shift moves a 0 into bit 0, so where the polynomial
is added the result has bit 0 set. -/
theorem crcRound_eq_zero {p a : Byte} (hp : p[0] = true) (h : crcRound p a = 0x00#8) : a = 0x00#8 := by
  have hbit (i : Nat) (hi : i < 8) : (crcRound p a)[i] = false := by simp [h]
  unfold crcRound at hbit
  split at hbit
  · have := hbit 0 (by omega)
    simp [hp] at this
  · rename_i h7
    ext i hi
    obtain rfl | hlt : i = 7 ∨ i < 7 := by omega
    · simpa using h7
    · simpa using hbit (i + 1) (by omega)

/-- So do any number of rounds. -/
theorem crcRounds_eq_zero {p : Byte} (hp : p[0] = true) {n : Nat} {a : Byte} (h : crcRounds p n a = 0x00#8) :
    a = 0x00#8 := by
  induction n generalizing a with
  | zero => exact h
  | succ n ih => exact crcRound_eq_zero hp (ih h)

/-- A linear function whose kernel is 0 is injective: the table of such a polynomial has 256 different entries (R96). -/
theorem crc8Step_zero_injective {p : Byte} (hp : p[0] = true) : Function.Injective (crc8Step p 0x00#8) := by
  intro x y hxy
  rw [crc8Step_zero, crc8Step_zero] at hxy
  have hzero : crcRounds p 8 (x ^^^ y) = 0x00#8 := by rw [crcRounds_xor, hxy, BitVec.xor_self]
  exact BitVec.xor_eq_zero_iff.mp (crcRounds_eq_zero hp hzero)

/-- Settles O18: the table is injective on a finite set, so a bijection, and XOR with one accumulator keeps bytes apart. -/
theorem crcTableForm : Obligations.CrcTableForm := by
  unfold Obligations.CrcTableForm
  intro T
  have hinj : Function.Injective T := crc8Step_zero_injective rfl
  refine ⟨crc8Step_eq_table 0x07#8, Finite.injective_iff_bijective.mp hinj, fun acc b b' hne h => hne ?_⟩
  rw [crc8Step_eq_table _ acc b, crc8Step_eq_table _ acc b'] at h
  exact (BitVec.xor_right_inj acc).mp (hinj h)

/-- Feeding q after c gives 0 for q = c only, under a polynomial with bit 0 set (R98). -/
theorem crc8Step_eq_zero_iff {p : Byte} (hp : p[0] = true) (c q : Byte) : crc8Step p c q = 0x00#8 ↔ q = c := by
  constructor
  · intro h
    exact (BitVec.xor_eq_zero_iff.mp (crcRounds_eq_zero hp h)).symm
  · rintro rfl
    exact crc8Step_self p q

/-- Settles O20: the last step folds the checksum into itself, and no other byte gives 0. -/
theorem checksumSelfCheck : Obligations.ChecksumSelfCheck := by
  unfold Obligations.ChecksumSelfCheck
  exact ⟨fun s => by rw [crc8_append_one, crc8Step_self], crc8Step_eq_zero_iff rfl⟩

/-- Settles O21: both checksums evaluated. -/
theorem checksumCheckValues : Obligations.ChecksumCheckValues := by
  unfold Obligations.ChecksumCheckValues
  decide +kernel

/-- The commands between the updates add nothing: without a CRC.RESET the fold of `accAfter` is that of the updates'
bytes. -/
theorem foldl_accAfter (p : Byte) (cmds : List Instr) (acc : Byte) (h : ∀ i ∈ cmds, i ≠ .crcReset) :
    cmds.foldl (accAfter p) acc = (cmds.filterMap updateByte?).foldl (crc8Step p) acc := by
  induction cmds generalizing acc with
  | nil => rfl
  | cons i rest ih =>
    obtain ⟨hi, hrest⟩ := List.forall_mem_cons.mp h
    rw [List.foldl_cons, ih _ hrest]
    cases i with
    | crcReset => exact absurd rfl hi
    | crcUpdate b => rfl
    | frameRead c => rfl
    | frameWrite c v => rfl
    | regRead r => rfl
    | regWrite r v => rfl

/-- The host's events are these commands' words. -/
def HostCommands (cmds : List Instr) (s : State) : Prop := s.host = cmds.map fun i => HostEvent.word (encode i)

/-- A step of a run whose host hands over well-formed commands: it takes the first one and runs it, or leaves CRC_ACC and
the words as they are, because a frame command is in progress or none is left (R95, R183). -/
theorem step_hostCommands {cmds : List Instr} {s : State} (hw : ∀ i ∈ cmds, i.wellFormed = true)
    (hh : HostCommands cmds s) :
    ∃ t, step s = .next t ∧ t.crcPoly = s.crcPoly ∧
      ((HostCommands cmds t ∧ t.crcAcc = s.crcAcc) ∨
        ∃ i rest, cmds = i :: rest ∧ HostCommands rest t ∧ t.crcAcc = accAfter s.crcPoly s.crcAcc i) := by
  cases cmds with
  | nil =>
    have same := goOn_same s
    exact ⟨goOn s, by simp [step, fetch, show s.host = [] from hh], same.crcPoly, .inl ⟨same.host.trans hh, same.crcAcc⟩⟩
  | cons i rest =>
    have hh' : s.host = .word (encode i) :: rest.map fun i => HostEvent.word (encode i) := hh
    obtain ⟨hi, -⟩ := List.forall_mem_cons.mp hw
    cases hb : s.busy with
    | true =>
      have same := goOn_same s
      exact ⟨goOn s, by simp [step, fetch, hh', hb], same.crcPoly, .inl ⟨same.host.trans hh, same.crcAcc⟩⟩
    | false =>
      obtain ⟨t, ht⟩ := exec_wellFormed (s := { s with host := rest.map fun i => HostEvent.word (encode i) }) hi hb
      have hdecode : decode (encode i) = .command i := decodeEncodeRoundTrip i hi
      exact ⟨t, (step_command hb hh' hdecode).trans ht, (exec_crcPoly ht :),
        .inr ⟨i, rest, rfl, exec_host ht, (exec_crcAcc ht :)⟩⟩

/-- A run on well-formed commands goes on, and once every word is taken CRC_ACC is their fold. -/
theorem runSteps_hostCommands (k : Nat) {cmds : List Instr} {s : State} (hw : ∀ i ∈ cmds, i.wellFormed = true)
    (hh : HostCommands cmds s) :
    ∃ t, runSteps k s = .next t ∧ (t.host = [] → t.crcAcc = cmds.foldl (accAfter s.crcPoly) s.crcAcc) := by
  induction k generalizing cmds s with
  | zero =>
    refine ⟨s, rfl, fun hnil => ?_⟩
    obtain rfl : cmds = [] := List.map_eq_nil_iff.mp (hh.symm.trans hnil)
    rfl
  | succ k ih =>
    obtain ⟨u, hu, hpoly, ⟨hhost, hacc⟩ | ⟨i, rest, rfl, hhost, hacc⟩⟩ := step_hostCommands hw hh
    · obtain ⟨t, ht, hend⟩ := ih hw hhost
      refine ⟨t, by simpa [runSteps, hu] using ht, ?_⟩
      rwa [hpoly, hacc] at hend
    · obtain ⟨t, ht, hend⟩ := ih (List.forall_mem_cons.mp hw).2 hhost
      refine ⟨t, by simpa [runSteps, hu] using ht, ?_⟩
      rwa [hpoly, hacc] at hend

/-- Settles O25: the run folds every command over CRC_ACC; CRC.RESET starts the fold at 0 and only the updates add to it. -/
theorem checksumSurvivesInterleavedCommands : Obligations.ChecksumSurvivesInterleavedCommands := by
  unfold Obligations.ChecksumSurvivesInterleavedCommands
  intro k cmds s hpoly hcmds hh
  have hw : ∀ i ∈ Instr.crcReset :: cmds, i.wellFormed = true :=
    List.forall_mem_cons.mpr ⟨rfl, fun i hi => (hcmds i hi).1⟩
  obtain ⟨t, ht, hend⟩ := runSteps_hostCommands k hw hh
  refine ⟨t, ht, fun hnil => (hend hnil).trans ?_⟩
  rw [hpoly]
  exact foldl_accAfter 0x07#8 cmds 0x00#8 fun i hi => (hcmds i hi).2

end Sys2Proof.Machine
end

section
/-! Proofs of the statements about what a step is and what it takes of the host (30_encoding.md sections 3 and 4;
60_exceptions.md section 7; 70_reset_and_hazards.md), and about the silence of the bus without a frame command. -/

namespace Sys2Proof.Machine

/-- A command presented while BUSY = 1 is refused by `whenReady` (R183). -/
@[simp] theorem whenReady_busy {s : State} (h : s.busy = true) (run : State → Host.Outcome State Fault Refusal) :
    whenReady s run = .refused .wordWhileBusy := by
  simp [whenReady, h]

/-- Every meaning asks `whenReady` first (R183). -/
theorem exec_busy (i : Instr) {s : State} (h : s.busy = true) : exec i s = .refused .wordWhileBusy := by
  cases i with
  | crcReset => simp [exec, execCrcReset, h]
  | crcUpdate b => simp [exec, execCrcUpdate, h]
  | frameRead c => simp [exec, execFrameRead, h]
  | frameWrite c v => simp [exec, execFrameWrite, h]
  | regRead r => simp [exec, execRegRead, h]
  | regWrite r v => simp [exec, execRegWrite, h]

/-- A word waits while BUSY = 1 and the frame command goes on (log entry 5). -/
theorem step_wordWaits {s : State} {w : CommandWord} {rest : List HostEvent} (hb : s.busy = true)
    (hh : s.host = .word w :: rest) : step s = .next (goOn s) := by
  simp [step, fetch, hh, hb]

theorem step_noEvent {s : State} (hh : s.host = []) : step s = .next (goOn s) := by
  simp [step, fetch, hh]

theorem step_pause {s : State} {rest : List HostEvent} (hh : s.host = .pause :: rest) :
    step s = .next (goOn { s with host := rest }) := by
  simp [step, fetch, hh]

/-- Settles O5: the step fetches the word, decodes it and runs the command. -/
theorem stepRunsDecodedCommand : Obligations.StepRunsDecodedCommand := by
  unfold Obligations.StepRunsDecodedCommand
  exact fun s w rest i hb hh hd => step_command hb hh hd

/-- Settles O6: one lemma about `step` for each event of the host that is no command. -/
theorem stepWithoutCommand : Obligations.StepWithoutCommand := by
  unfold Obligations.StepWithoutCommand
  exact ⟨fun s hh => step_noEvent hh, fun s rest hh => step_pause hh, fun s w rest hb hh => step_wordWaits hb hh,
    fun s w rest r hb hh hd => step_refusedWord hb hh hd, fun s rest hh => step_reset hh, fun s hb => goOn_idle hb⟩

/-- Settles O7: `whenReady` refuses every command, and a word that waits stays among the host's events. -/
theorem noCommandAcceptedWhileBusy : Obligations.NoCommandAcceptedWhileBusy := by
  unfold Obligations.NoCommandAcceptedWhileBusy
  exact ⟨fun i s hb => exec_busy i hb, fun s w rest hb hh => ⟨_, step_wordWaits hb hh, (goOn_same s).host⟩⟩

/-- Settles O2: the reset event runs `resetBlock`, which keeps the inputs and the log and nothing else. -/
theorem resetAbandonsFrameCommand : Obligations.ResetAbandonsFrameCommand := by
  unfold Obligations.ResetAbandonsFrameCommand
  intro s rest _ hh
  exact ⟨_, step_reset hh, rfl, rfl, rfl, rfl, rfl, rfl, rfl, rfl, rfl⟩

/-- No word among the host's events is a frame command. -/
def NoFrameWords (events : List HostEvent) : Prop :=
  ∀ w ∈ hostWords events, ∀ i, decode w = .command i → isFrame i = false

/-- What a state with no frame command in progress and none to come keeps. -/
structure BusUntouched (s t : State) : Prop where
  busLog : t.busLog = s.busLog
  busIn : t.busIn = s.busIn
  busDraws : t.busDraws = s.busDraws
  busy : t.busy = false

/-- A word later among the host's events is among them. -/
theorem noFrameWords_tail {e : HostEvent} {rest : List HostEvent} (h : NoFrameWords (e :: rest)) : NoFrameWords rest := by
  intro w hw
  refine h w ?_
  cases e with
  | word v => exact List.mem_cons_of_mem v hw
  | reset => exact hw
  | pause => exact hw

/-- With BUSY = 0 and no frame command to take, a step does not touch the bus, and no frame word comes to the host (R5). -/
theorem step_busUntouched {s t : State} (hb : s.busy = false) (hw : NoFrameWords s.host) (h : step s = .next t) :
    BusUntouched s t ∧ NoFrameWords t.host := by
  rcases step_next_cases h with ⟨rest, hh, rfl⟩ | ⟨rest, hh, rfl⟩ | ⟨w, rest, -, hbusy, -⟩ | ⟨w, rest, i, hh, -, hd, he⟩ |
      ⟨-, rfl⟩
  · exact ⟨⟨rfl, rfl, rfl, rfl⟩, noFrameWords_tail (hh ▸ hw)⟩
  · rw [goOn_idle (by exact hb)]
    exact ⟨⟨rfl, rfl, rfl, hb⟩, noFrameWords_tail (hh ▸ hw)⟩
  · simp [hb] at hbusy
  · have hi : isFrame i = false := hw w (by simp [hh, hostWords]) i hd
    have same := exec_immediate_same hi he
    exact ⟨⟨same.busLog, same.busIn, same.busDraws, same.busy.trans hb⟩, same.host ▸ noFrameWords_tail (hh ▸ hw)⟩
  · rw [goOn_idle hb]
    exact ⟨⟨rfl, rfl, rfl, hb⟩, hw⟩

/-- A run begins with a step. -/
theorem runSteps_succ_next {k : Nat} {s t : State} (h : runSteps (k + 1) s = .next t) :
    ∃ u, step s = .next u ∧ runSteps k u = .next t := by
  unfold runSteps at h
  split at h
  · exact ⟨_, by assumption, h⟩
  · rename_i hne
    exact absurd h (hne t)

/-- Any number of steps leaves the bus untouched. -/
theorem runSteps_busUntouched {k : Nat} {s t : State} (hb : s.busy = false) (hw : NoFrameWords s.host)
    (h : runSteps k s = .next t) : BusUntouched s t := by
  induction k generalizing s with
  | zero => cases h; exact ⟨rfl, rfl, rfl, hb⟩
  | succ k ih =>
    obtain ⟨u, hu, h⟩ := runSteps_succ_next h
    obtain ⟨first, hw'⟩ := step_busUntouched hb hw hu
    have later := ih first.busy hw' h
    exact ⟨later.busLog.trans first.busLog, later.busIn.trans first.busIn, later.busDraws.trans first.busDraws, later.busy⟩

/-- Settles O8: each step leaves the bus untouched, BUSY at 0 and no frame command among the words. -/
theorem noBusActivityWithoutFrameCommand : Obligations.NoBusActivityWithoutFrameCommand := by
  unfold Obligations.NoBusActivityWithoutFrameCommand
  intro k s t hb hw h
  obtain ⟨busLog, busIn, busDraws, busy⟩ := runSteps_busUntouched hb hw h
  exact ⟨busLog, busIn, busDraws, busy⟩

end Sys2Proof.Machine
end

section
/-! Proofs of the statements about who writes a register, over every step of the machine (10_state.md sections 2 and 3;
41_frame_builder.md sections 2 and 3; 70_reset_and_hazards.md section 2). -/

namespace Sys2Proof.Machine

/-- Everything a step that answers a next state has done, with its going on with a frame command as one case: a reset, a
command, or the frame builder's steps behind a change of the host's events. -/
theorem step_next_kinds {s t : State} (h : step s = .next t) :
    ResetNext s ∨ (∃ i events, CommandNext i s ∧ exec i { s with host := events } = .next t) ∨
      ∃ events, t = goOn { s with host := events } := by
  rcases step_next_cases h with ⟨rest, hh, -⟩ | ⟨rest, -, rfl⟩ | ⟨w, rest, -, -, rfl⟩ | ⟨w, rest, i, hh, hb, hd, he⟩ | ⟨-, rfl⟩
  · exact .inl (congrArg List.head? hh)
  · exact .inr (.inr ⟨rest, rfl⟩)
  · exact .inr (.inr ⟨s.host, rfl⟩)
  · exact .inr (.inl ⟨i, rest, ⟨hb, w, rest, hh, hd⟩, he⟩)
  · exact .inr (.inr ⟨s.host, rfl⟩)

/-- Settles O51: every command makes `accAfter` of CRC_ACC, which the other four leave, and going on leaves it. -/
theorem crcAccWriters : Obligations.CrcAccWriters := by
  unfold Obligations.CrcAccWriters
  intro s t h
  rcases step_next_kinds h with hr | ⟨i, events, hc, he⟩ | ⟨events, rfl⟩
  · exact .inr (.inl hr)
  · have hacc : t.crcAcc = accAfter s.crcPoly s.crcAcc i := (exec_crcAcc he :)
    cases i with
    | crcReset => exact .inr (.inr (.inl hc))
    | crcUpdate b => exact .inr (.inr (.inr ⟨b, hc⟩))
    | frameRead c => exact .inl hacc
    | frameWrite c v => exact .inl hacc
    | regRead r => exact .inl hacc
    | regWrite r v => exact .inl hacc
  · exact .inl (goOn_same _).crcAcc

/-- Settles O52: among the commands only REG.WRITE of index 0x02 writes ADDR, and going on leaves it. -/
theorem addrWriters : Obligations.AddrWriters := by
  unfold Obligations.AddrWriters
  intro s t h
  rcases step_next_kinds h with hr | ⟨i, events, hc, he⟩ | ⟨events, rfl⟩
  · exact .inr (.inl hr)
  · rcases exec_addr he with hsame | ⟨v, rfl, ht⟩
    · exact .inl hsame
    · exact .inr (.inr ⟨v, hc, ht⟩)
  · exact .inl (goOn_same _).addr

/-- The frame builder adds frame-owned bits to ERR, and its masking of bit 7 is outside the host's bits. -/
theorem or_frameOwned_and_errHostOwned (e : Byte) {x : Byte} (hx : x &&& errFrameOwned = x) :
    ((e &&& errDefined ||| x) &&& errDefined) &&& errHostOwned = e &&& errHostOwned := by
  rw [← hx, BitVec.and_assoc, BitVec.and_or_distrib_right, BitVec.and_assoc, BitVec.and_assoc,
    show errFrameOwned &&& (errDefined &&& errHostOwned) = 0#8 from rfl, BitVec.and_zero, BitVec.or_zero]
  rfl

/-- The PEC bit is a frame-owned bit. -/
theorem pecBits_and_errFrameOwned (computed received : Byte) :
    pecBits computed received &&& errFrameOwned = pecBits computed received := by
  unfold pecBits
  split <;> rfl

/-- The broadcast rule passes the host's bits by (R120). -/
theorem suppressBroadcast_and_errHostOwned (a : BusAddr) (e : Byte) :
    suppressBroadcast Config.pBcastSuppressMask a e &&& errHostOwned = e &&& errHostOwned := by
  unfold suppressBroadcast
  split
  · rw [BitVec.and_assoc]
    rfl
  · rfl

/-- The defined bits hold the host's. -/
theorem and_errDefined_and_errHostOwned (e : Byte) : (e &&& errDefined) &&& errHostOwned = e &&& errHostOwned := by
  rw [BitVec.and_assoc]
  rfl

theorem endWritePhase_errHostOwned (st : Byte) (s : State) :
    (endWritePhase st s).err &&& errHostOwned = s.err &&& errHostOwned :=
  or_frameOwned_and_errHostOwned s.err (statusBits_and_errFrameOwned st)

theorem finishRead_errHostOwned (s : State) : (finishRead s).err &&& errHostOwned = s.err &&& errHostOwned := by
  rw [finishRead_err, and_errDefined_and_errHostOwned, suppressBroadcast_and_errHostOwned, and_errDefined_and_errHostOwned,
    readErr]
  exact or_frameOwned_and_errHostOwned s.err (pecBits_and_errFrameOwned _ _)

theorem finishWrite_errHostOwned (s : State) : (finishWrite s).err &&& errHostOwned = s.err &&& errHostOwned := by
  rw [finishWrite_err, and_errDefined_and_errHostOwned, suppressBroadcast_and_errHostOwned]
  exact and_errDefined_and_errHostOwned s.err

/-- The start-of-frame clear leaves the host's bits (R110). -/
theorem startClear_errHostOwned (s : State) :
    (startClear (readErr s) &&& errDefined) &&& errHostOwned = s.err &&& errHostOwned := by
  rw [startClear_readErr, BitVec.and_assoc]
  rfl

/-- What the frame builder's steps before the last leave: BUSY, FB_ACC and the registers of a command's result. -/
structure SameResults (s t : State) : Prop where
  busy : t.busy = s.busy
  fbAcc : t.fbAcc = s.fbAcc
  lastCrc : t.lastCrc = s.lastCrc
  lastPec : t.lastPec = s.lastPec
  resp : t.resp = s.resp

/-- The bus agent's moves touch no register. -/
theorem takeMove_sameResults {s s1 : State} {m : Option Byte} (h : takeMove s = (m, s1)) : SameResults s s1 := by
  obtain ⟨bi, bd, rfl⟩ := takeMove_eq h
  constructor <;> rfl

theorem takeMove_err {s s1 : State} {m : Option Byte} (h : takeMove s = (m, s1)) : s1.err = s.err := by
  obtain ⟨bi, bd, rfl⟩ := takeMove_eq h
  rfl

theorem SameResults.trans {s t u : State} (h : SameResults s t) (k : SameResults t u) : SameResults s u :=
  ⟨k.1.trans h.1, k.2.trans h.2, k.3.trans h.3, k.4.trans h.4, k.5.trans h.5⟩

/-- A step of the frame builder leaves the results, or it makes the end-of-command updates. -/
theorem frameStep_results {s t : State} (hf : frameStep s = .moved t ∨ frameStep s = .waits t) :
    (SameResults s t ∧ (s.phase = .idle → t = s)) ∨ (s.phase = .done ∧ s.xfer.kind = .read ∧ t = finishRead s) ∨
      (s.phase = .done ∧ s.xfer.kind = .write ∧ t = finishWrite s) := by
  rcases frameStep_next_cases hf with ⟨-, rfl⟩ | ⟨hp, m⟩ | ⟨st, s1, hp, m, rfl⟩ | ⟨hp, rfl⟩ | ⟨b, s1, hp, m, rfl⟩ |
      ⟨hp, hk, rfl⟩ | ⟨hp, hk, rfl⟩
  · exact .inl ⟨by constructor <;> rfl, fun _ => rfl⟩
  · exact .inl ⟨takeMove_sameResults m, by rcases hp with hp | hp <;> simp [hp]⟩
  · exact .inl ⟨(takeMove_sameResults m).trans (by constructor <;> rfl), by simp [hp]⟩
  · exact .inl ⟨by constructor <;> rfl, by simp [hp]⟩
  · exact .inl ⟨(takeMove_sameResults m).trans (by constructor <;> simp), by simp [hp]⟩
  · exact .inr (.inl ⟨hp, hk, rfl⟩)
  · exact .inr (.inr ⟨hp, hk, rfl⟩)

/-- A step of the frame builder leaves SEM and CORRUPT. -/
theorem frameStep_errHostOwned {s t : State} (hf : frameStep s = .moved t ∨ frameStep s = .waits t) :
    t.err &&& errHostOwned = s.err &&& errHostOwned := by
  rcases frameStep_next_cases hf with ⟨-, rfl⟩ | ⟨-, m⟩ | ⟨st, s1, -, m, rfl⟩ | ⟨-, rfl⟩ | ⟨b, s1, -, m, rfl⟩ |
      ⟨-, -, rfl⟩ | ⟨-, -, rfl⟩
  · rfl
  · rw [takeMove_err m]
  · rw [endWritePhase_errHostOwned, takeMove_err m]
  · rfl
  · rw [receiveByte_err, takeMove_err m]
  · exact finishRead_errHostOwned s
  · exact finishWrite_errHostOwned s

/-- Going on leaves SEM and CORRUPT. -/
theorem goOn_errHostOwned (s : State) : (goOn s).err &&& errHostOwned = s.err &&& errHostOwned :=
  goOn_keeps (P := fun u => u.err &&& errHostOwned = s.err &&& errHostOwned)
    (fun _ _ hf h => (frameStep_errHostOwned hf).trans h) rfl

/-- Both frame commands leave SEM and CORRUPT. -/
theorem exec_frame_errHostOwned {i : Instr} {s t : State} (hi : isFrame i = true) (h : exec i s = .next t) :
    t.err &&& errHostOwned = s.err &&& errHostOwned := by
  cases i with
  | crcReset => cases hi
  | crcUpdate b => cases hi
  | frameRead c =>
    obtain ⟨-, rfl⟩ := execFrameRead_next h
    exact (goOn_errHostOwned _).trans (startClear_errHostOwned s)
  | frameWrite c v =>
    obtain ⟨-, rfl⟩ := execFrameWrite_next h
    exact (goOn_errHostOwned _).trans (startClear_errHostOwned s)
  | regRead r => cases hi
  | regWrite r v => cases hi

/-- Settles O53: frame commands leave the host's bits, and among the others only REG.WRITE of index 0x03 writes ERR. -/
theorem hostErrorBitsWriters : Obligations.HostErrorBitsWriters := by
  unfold Obligations.HostErrorBitsWriters
  intro s t h
  rcases step_next_kinds h with hr | ⟨i, events, hc, he⟩ | ⟨events, rfl⟩
  · exact .inr (.inl hr)
  · cases hi : isFrame i with
    | true => exact .inl (exec_frame_errHostOwned hi he :)
    | false =>
      rcases exec_immediate_err hi he with hsame | ⟨v, rfl, -⟩
      · exact .inl (congrArg (· &&& 0x60#8) hsame)
      · exact .inr (.inr ⟨v, hc⟩)
  · exact .inl (goOn_errHostOwned _)

/-- While BUSY = 1 the results hold what they held. -/
theorem goOn_busy_results {s : State} (h : (goOn s).busy = true) :
    (goOn s).resp = s.resp ∧ (goOn s).lastPec = s.lastPec := by
  refine goOn_keeps (P := fun u => u.busy = true → u.resp = s.resp ∧ u.lastPec = s.lastPec) (fun u v hf hu hv => ?_)
    (fun _ => ⟨rfl, rfl⟩) h
  rcases frameStep_results hf with ⟨same, -⟩ | ⟨-, -, rfl⟩ | ⟨-, -, rfl⟩
  · obtain ⟨hresp, hpec⟩ := hu (same.busy ▸ hv)
    exact ⟨same.resp.trans hresp, same.lastPec.trans hpec⟩
  · cases hv
  · cases hv

/-- A command that ends with BUSY = 1 leaves the results. -/
theorem exec_busy_results {i : Instr} {s t : State} (h : exec i s = .next t) (hb : t.busy = true) :
    t.resp = s.resp ∧ t.lastPec = s.lastPec := by
  have immediate (hi : isFrame i = false) : t.resp = s.resp ∧ t.lastPec = s.lastPec := by
    rw [(exec_immediate_same hi h).busy, exec_next_ready h] at hb
    cases hb
  cases i with
  | crcReset => exact immediate rfl
  | crcUpdate b => exact immediate rfl
  | frameRead c => obtain ⟨-, rfl⟩ := execFrameRead_next h; exact goOn_busy_results hb
  | frameWrite c v => obtain ⟨-, rfl⟩ := execFrameWrite_next h; exact goOn_busy_results hb
  | regRead r => exact immediate rfl
  | regWrite r v => exact immediate rfl

/-- Settles O42: only the end of a frame command and the immediate commands write the results, and they end with BUSY = 0. -/
theorem resultsHeldWhileBusy : Obligations.ResultsHeldWhileBusy := by
  unfold Obligations.ResultsHeldWhileBusy
  intro s t h hb
  rcases step_next_cases h with ⟨rest, -, rfl⟩ | ⟨rest, -, rfl⟩ | ⟨w, rest, -, -, rfl⟩ | ⟨w, rest, i, -, -, -, he⟩ | ⟨-, rfl⟩
  · cases hb
  · exact goOn_busy_results hb
  · exact goOn_busy_results hb
  · exact (exec_busy_results he hb :)
  · exact goOn_busy_results hb

/-- A FRAME.WRITE in progress leaves LAST_PEC. -/
theorem goOn_write_lastPec {s : State} (hk : s.xfer.kind = .write) : (goOn s).lastPec = s.lastPec := by
  refine (goOn_keeps (P := fun u => u.xfer.kind = .write ∧ u.lastPec = s.lastPec) (fun u v hf hu => ?_) ⟨hk, rfl⟩).2
  obtain ⟨hw, hpec⟩ := hu
  refine ⟨(frameStep_same hf).kind.trans hw, ?_⟩
  rcases frameStep_results hf with ⟨same, -⟩ | ⟨-, hr, -⟩ | ⟨-, -, rfl⟩
  · exact same.lastPec.trans hpec
  · simp [hw] at hr
  · exact hpec

/-- No frame command is a CRC command. -/
theorem isCrc_of_isFrame {i : Instr} (hi : isFrame i = true) : isCrc i = false := by
  cases i with
  | crcReset => cases hi
  | crcUpdate b => cases hi
  | frameRead c => rfl
  | frameWrite c v => rfl
  | regRead r => rfl
  | regWrite r v => rfl

/-- Settles O43: accepting and going on leave what is outside the frame builder and the host's bits of ERR, and only the
end of a read writes LAST_PEC. -/
theorem frameCommandsFrame : Obligations.FrameCommandsFrame := by
  unfold Obligations.FrameCommandsFrame
  intro kept
  have kept_goOn (s : State) : kept s (goOn s) := by
    obtain ⟨crcAcc, crcPoly, addr, host, -, -, -⟩ := goOn_same s
    exact ⟨crcAcc, crcPoly, addr, host, goOn_errHostOwned s⟩
  have kept_exec {i : Instr} {s t : State} (hi : isFrame i = true) (h : exec i s = .next t) : kept s t := by
    have herr := exec_frame_errHostOwned hi h
    have haddr : t.addr = s.addr := (exec_addr h).resolve_right (by rintro ⟨v, rfl, -⟩; cases hi)
    have hacc : accAfter s.crcPoly s.crcAcc i = s.crcAcc := accAfter_notCrc (isCrc_of_isFrame hi) _ _
    exact ⟨(exec_crcAcc h).trans hacc, exec_crcPoly h, haddr, exec_host h, herr⟩
  refine ⟨fun i s t hi h => ⟨kept_exec hi h, ?_⟩, fun s => ⟨kept_goOn s, goOn_write_lastPec⟩⟩
  rintro c v rfl
  obtain ⟨-, rfl⟩ := execFrameWrite_next h
  exact goOn_write_lastPec rfl

/-- Going on leaves LAST_CRC or makes it FB_ACC. -/
theorem goOn_lastCrc {s : State} {old : Byte} (h : s.lastCrc = old ∨ s.lastCrc = s.fbAcc) :
    (goOn s).lastCrc = old ∨ (goOn s).lastCrc = (goOn s).fbAcc := by
  refine goOn_keeps (P := fun u => u.lastCrc = old ∨ u.lastCrc = u.fbAcc) (fun u v hf hu => ?_) h
  rcases frameStep_results hf with ⟨same, -⟩ | ⟨-, -, rfl⟩ | ⟨-, -, rfl⟩
  · rwa [same.lastCrc, same.fbAcc]
  · exact .inr rfl
  · exact hu

/-- A FRAME.READ has ended and LAST_PEC is the PEC byte it received. -/
def ReadEnded (s : State) : Prop := s.busy = false ∧ s.xfer.kind = .read ∧ s.lastPec = s.xfer.pec

/-- Going on leaves LAST_PEC, or ends a FRAME.READ and makes it the PEC byte received. -/
theorem goOn_lastPec (s : State) : (goOn s).lastPec = s.lastPec ∨ ReadEnded (goOn s) := by
  have kept : (goOn s).lastPec = s.lastPec ∨ ((goOn s).phase = .idle ∧ ReadEnded (goOn s)) := by
    refine goOn_keeps (P := fun u => u.lastPec = s.lastPec ∨ (u.phase = .idle ∧ ReadEnded u)) (fun u v hf hu => ?_)
      (.inl rfl)
    rcases frameStep_results hf with ⟨same, hidle⟩ | ⟨-, hk, rfl⟩ | ⟨hp, -, rfl⟩
    · rcases hu with hu | ⟨hp, hend⟩
      · exact .inl (same.lastPec.trans hu)
      · obtain rfl := hidle hp
        exact .inr ⟨hp, hend⟩
    · exact .inr ⟨rfl, rfl, hk, rfl⟩
    · exact .inl (hu.resolve_right (by simp [hp]))
  exact kept.imp_right And.right

/-- LAST_CRC and LAST_PEC after a frame command. -/
theorem exec_frame_diagnostics {i : Instr} {s t : State} (hi : isFrame i = true) (h : exec i s = .next t) :
    (t.lastCrc = s.lastCrc ∨ t.lastCrc = t.fbAcc) ∧ (t.lastPec = s.lastPec ∨ ReadEnded t) := by
  cases i with
  | crcReset => cases hi
  | crcUpdate b => cases hi
  | frameRead c =>
    obtain ⟨-, rfl⟩ := execFrameRead_next h
    exact ⟨goOn_lastCrc (.inl rfl), goOn_lastPec (acceptRead c s)⟩
  | frameWrite c v =>
    obtain ⟨-, rfl⟩ := execFrameWrite_next h
    exact ⟨goOn_lastCrc (.inr rfl), goOn_lastPec (acceptWrite c v s)⟩
  | regRead r => cases hi
  | regWrite r v => cases hi

/-- Settles O54: a frame command and going on with one write the two registers as `goOn_lastCrc` and `goOn_lastPec` say, the
immediate commands leave them, and with BUSY = 0 there is nothing to go on with. -/
theorem diagnosticRegisterWriters : Obligations.DiagnosticRegisterWriters := by
  unfold Obligations.DiagnosticRegisterWriters
  intro s t h inFrame
  have written (hin : inFrame) (hcrc : t.lastCrc = s.lastCrc ∨ t.lastCrc = t.fbAcc)
      (hpec : t.lastPec = s.lastPec ∨ ReadEnded t) :
      (t.lastCrc = s.lastCrc ∨ ResetNext s ∨ (inFrame ∧ t.lastCrc = t.fbAcc)) ∧
        (t.lastPec = s.lastPec ∨ ResetNext s ∨
          (inFrame ∧ t.busy = false ∧ t.xfer.kind = .read ∧ t.lastPec = t.xfer.pec)) :=
    ⟨hcrc.imp_right fun e => .inr ⟨hin, e⟩, hpec.imp_right fun e => .inr ⟨hin, e⟩⟩
  rcases step_next_kinds h with hr | ⟨i, events, hc, he⟩ | ⟨events, rfl⟩
  · exact ⟨.inr (.inl hr), .inr (.inl hr)⟩
  · cases hi : isFrame i with
    | true =>
      obtain ⟨hcrc, hpec⟩ := exec_frame_diagnostics hi he
      exact written (.inr ⟨i, hi, hc⟩) hcrc hpec
    | false =>
      have same := exec_immediate_same hi he
      exact ⟨.inl same.lastCrc, .inl same.lastPec⟩
  · obtain hb | hb := Bool.eq_false_or_eq_true s.busy
    · exact written (.inl hb) (goOn_lastCrc (.inl rfl)) (goOn_lastPec _)
    · rw [goOn_idle (by exact hb)]
      exact ⟨.inl rfl, .inl rfl⟩

end Sys2Proof.Machine
end

section
/-! Proofs of the statements about the PEC's address bytes and the status mapping (20_memory.md section 2;
41_frame_builder.md section 1). -/

namespace Sys2Proof.Machine

/-- The write-address byte is twice the address, which has seven bits (R56). -/
theorem writeAddrByte_toNat (a : BusAddr) : (writeAddrByte a).toNat = 2 * a.toNat := by
  have := a.isLt
  simp only [writeAddrByte, BitVec.toNat_shiftLeft, BitVec.toNat_setWidth, Nat.shiftLeft_eq]
  omega

/-- Adding 1 where bit 0 is clear sets bit 0. -/
theorem readAddrByte_eq_or (a : BusAddr) : readAddrByte a = writeAddrByte a ||| 0x01#8 := by
  refine BitVec.add_eq_or_of_and_eq_zero _ _ ?_
  ext i hi
  interval_cases i <;> simp [writeAddrByte]

/-- Settles O26: the address byte has the address shifted by one place, so bit 0 is free for the read flag. -/
theorem pecAddressBytes : Obligations.PecAddressBytes := by
  unfold Obligations.PecAddressBytes
  refine ⟨fun a => ⟨writeAddrByte_toNat a, ?_, rfl, readAddrByte_eq_or a⟩, by decide, by decide⟩
  simp [writeAddrByte]

/-- Settles O27: the mapping by its cases; from 4 on it is the last one. -/
theorem statusMapping : Obligations.StatusMapping := by
  unfold Obligations.StatusMapping
  refine ⟨rfl, rfl, rfl, rfl, fun st hst => ?_⟩
  unfold statusBits
  split
  case h_5 => rfl
  all_goals omega

end Sys2Proof.Machine
end

section
/-! Proofs of the statements about answered frame commands (41_frame_builder.md sections 1 to 4): their end states, ERR after
them, and a reset in TURN. -/

namespace Sys2Proof.Machine

/-- Settles O28: BusEnd's answer leads to TURN, and the next step takes the three bytes and ends the command. -/
theorem frameReadCompletes : Obligations.FrameReadCompletes := by
  unfold Obligations.FrameReadCompletes
  intro c s st lo hi pec moved hb ha
  obtain ⟨s1, hm, -⟩ := takeMoves_cons.mp (takeMoves_of_busAnswers ha)
  refine ⟨?_, fun hr => runCommand_frameRead_answered c hb ha hr⟩
  rw [hm]
  exact exec_frameRead_answered c hb hm

/-- A FRAME.WRITE whose next move is one answer, in the form the statements give it. -/
theorem exec_frameWrite_busAnswers {s moved : State} {st : Byte} (c : Byte) (v : Value) (hb : s.busy = false)
    (ha : busAnswers 1 s = some ([st], moved)) : exec (.frameWrite c v) s = .next (writeDone c v st s moved) := by
  obtain ⟨s1, hm, hnil⟩ := takeMoves_cons.mp (takeMoves_of_busAnswers ha)
  cases hnil
  exact exec_frameWrite_answered c v hb hm

/-- Settles O34: BusEnd's answer takes the write to DONE and the same transition ends it. -/
theorem frameWriteCompletes : Obligations.FrameWriteCompletes := by
  unfold Obligations.FrameWriteCompletes
  intro c v s st moved hb ha
  exact exec_frameWrite_busAnswers c v hb ha

/-- Settles O29: the step after TURN runs `resetBlock`, which keeps the log as TURN left it. -/
theorem resetInTurnCancelsReadPhase : Obligations.ResetInTurnCancelsReadPhase := by
  unfold Obligations.ResetInTurnCancelsReadPhase
  intro c s st s1 rest hb hm hh
  have hhost : (readTurn c st s s1).host = .reset :: rest := (takeMove_same hm).host.trans hh
  exact ⟨_, runCommand_one (exec_frameRead_answered c hb hm) (step_reset hhost), rfl, rfl, rfl, rfl, rfl, rfl, rfl⟩

/-- The frame-owned bits after a completed frame command are R127's function alone (R110, R127). -/
theorem ownedBits_and_errFrameOwned (e : Byte) (mask st : Byte) (mismatch : Bool) (a : BusAddr) :
    (e &&& errHostOwned ||| frameErr mask st mismatch a) &&& errFrameOwned = frameErr mask st mismatch a := by
  rw [BitVec.and_or_distrib_right, frameErr_and_errFrameOwned, BitVec.and_assoc,
    show errHostOwned &&& errFrameOwned = 0#8 from rfl, BitVec.and_zero, BitVec.zero_or]

/-- ERR[4:0] after a completed FRAME.READ. -/
theorem readDone_errFrameOwned (c st lo hi pec : Byte) (s moved : State) :
    (readDone c st lo hi pec s moved).err &&& errFrameOwned = frameErr Config.pBcastSuppressMask st
      (crc8 s.crcPoly [writeAddrByte s.addr, c, readAddrByte s.addr, lo, hi] ≠ pec) s.addr :=
  ownedBits_and_errFrameOwned ..

/-- ERR[4:0] after a completed FRAME.WRITE. -/
theorem writeDone_errFrameOwned (c : Byte) (v : Value) (st : Byte) (s moved : State) :
    (writeDone c v st s moved).err &&& errFrameOwned = frameErr Config.pBcastSuppressMask st false s.addr :=
  ownedBits_and_errFrameOwned ..

/-- Settles O37: ERR[4:0] of both end states is R127's function of the answers, ADDR and CRC_POLY. -/
theorem frameErrorsDependOnThisCommandOnly : Obligations.FrameErrorsDependOnThisCommandOnly := by
  unfold Obligations.FrameErrorsDependOnThisCommandOnly
  constructor
  · intro c s1 s2 st lo hi pec m1 m2 hb1 hb2 haddr hpoly ha1 ha2 hr1 hr2
    refine ⟨_, _, runCommand_frameRead_answered c hb1 ha1 hr1, runCommand_frameRead_answered c hb2 ha2 hr2, ?_⟩
    refine (readDone_errFrameOwned ..).trans (Eq.trans ?_ (readDone_errFrameOwned ..).symm)
    rw [haddr, hpoly]
  · intro c v s1 s2 st m1 m2 hb1 hb2 haddr ha1 ha2
    refine ⟨_, _, exec_frameWrite_busAnswers c v hb1 ha1, exec_frameWrite_busAnswers c v hb2 ha2, ?_⟩
    refine (writeDone_errFrameOwned ..).trans (Eq.trans ?_ (writeDone_errFrameOwned ..).symm)
    rw [haddr]

end Sys2Proof.Machine
end

section
/-! Going on with a frame command one bus move at a time: `goOn` in terms of one step of the frame builder, whatever fuel
is left, and runs of the machine in which the command goes on (20_memory.md R58, R61; log entries 2 and 3). -/

namespace Sys2Proof.Machine

/-- The BusReads still to be answered after the one that waits. -/
def readsLeft : RxByte → Nat
  | .lo => 2
  | .hi => 1
  | .pec => 0

/-- A bound of the frame builder's steps until the command waits or has ended: in R_PHASE an answer for each BusRead, and
the end-of-command updates. -/
def stepsLeft (s : State) : Nat :=
  match s.phase with
  | .idle => 0
  | .wPhase => 2
  | .turn => readsLeft s.xfer.awaits + 3
  | .rPhase => readsLeft s.xfer.awaits + 2
  | .done => 1

/-- `frameSteps` is fuel enough for every state. -/
theorem stepsLeft_le (s : State) : stepsLeft s ≤ frameSteps := by
  have : readsLeft s.xfer.awaits ≤ 2 := by cases s.xfer.awaits <;> simp [readsLeft]
  unfold stepsLeft frameSteps
  cases s.phase <;> simp only <;> omega

/-- An answered BusRead is one less to wait for. -/
theorem stepsLeft_receiveByte {s : State} (b : Byte) (hp : s.phase = .rPhase) :
    stepsLeft (receiveByte b s) < stepsLeft s := by
  cases ha : s.xfer.awaits <;> simp [receiveByte, stepsLeft, readsLeft, ha, hp]

/-- Each step that moves on brings the end nearer. -/
theorem frameStep_moved_stepsLeft {s t : State} (hf : frameStep s = .moved t) : stepsLeft t < stepsLeft s := by
  rcases frameStep_cases s with ⟨-, e⟩ | ⟨s1, -, m, e⟩ | ⟨st, s1, hp, m, ⟨-, e⟩ | ⟨hk, e⟩⟩ | ⟨hp, e⟩ | ⟨s1, -, m, e⟩ |
      ⟨b, s1, hp, m, e⟩ | ⟨hp, -, e⟩ | ⟨hp, -, e⟩ <;> rw [e] at hf <;> cases hf
  · have hk1 : s1.xfer.kind = .write := (takeMove_same m).kind.trans hk
    simp [stepsLeft, hp, hk1]
  · simp [stepsLeft, hp]
  · obtain ⟨bi, bd, rfl⟩ := takeMove_eq m
    exact stepsLeft_receiveByte (s := { s with busIn := bi, busDraws := bd }) b hp
  · simp [stepsLeft, hp]
  · simp [stepsLeft, hp]

/-- With no step left nothing is in progress, and a run of any length stands still. -/
theorem frameRun_of_stepsLeft_zero {s : State} (h : stepsLeft s = 0) (n : Nat) : frameRun n s = s := by
  have hidle : s.phase = .idle := by
    cases hp : s.phase with
    | idle => rfl
    | wPhase => simp [stepsLeft, hp] at h
    | turn => simp [stepsLeft, hp] at h
    | rPhase => simp [stepsLeft, hp] at h
    | done => simp [stepsLeft, hp] at h
  cases n with
  | zero => rfl
  | succ n => exact frameRun_waits n (frameStep_idle hidle)

/-- More fuel than `stepsLeft` changes nothing. -/
theorem frameRun_fuel {n m : Nat} {s : State} (hn : stepsLeft s ≤ n) (hm : stepsLeft s ≤ m) :
    frameRun n s = frameRun m s := by
  induction n generalizing m s with
  | zero => exact (frameRun_of_stepsLeft_zero (Nat.le_zero.mp hn) m).symm
  | succ n ih =>
    cases m with
    | zero => exact frameRun_of_stepsLeft_zero (Nat.le_zero.mp hm) (n + 1)
    | succ m =>
      cases hf : frameStep s with
      | waits t => rw [frameRun_waits n hf, frameRun_waits m hf]
      | moved t =>
        have hlt := frameStep_moved_stepsLeft hf
        rw [frameRun_moved n hf, frameRun_moved m hf]
        exact ih (by omega) (by omega)

/-- A step of the frame builder that moves on is the first part of going on. -/
theorem goOn_moved {s t : State} (hs : s.busy = true) (ht : t.busy = true) (hf : frameStep s = .moved t) :
    goOn s = goOn t := by
  rw [goOn_busy hs, goOn_busy ht, frameSteps, frameRun_moved 4 hf]
  have hlt := frameStep_moved_stepsLeft hf
  have hle := stepsLeft_le s
  exact frameRun_fuel (by unfold frameSteps at hle; omega) (stepsLeft_le t)

/-- A step of the frame builder that waits is all of going on. -/
theorem goOn_waits {s t : State} (hs : s.busy = true) (hf : frameStep s = .waits t) : goOn s = t := by
  rw [goOn_busy hs, frameSteps, frameRun_waits 4 hf]

/-- The command goes on k times from s to t, in progress at the start of each. -/
def GoesOn : Nat → State → State → Prop
  | 0, s, t => t = s
  | k + 1, s, t => s.busy = true ∧ GoesOn k (goOn s) t

/-- The frame builder does not look at the host's events. -/
theorem goesOn_host {k : Nat} {s t : State} (h : GoesOn k s t) (events : List HostEvent) :
    GoesOn k { s with host := events } { t with host := events } := by
  induction k generalizing s with
  | zero => cases h; rfl
  | succ k ih =>
    obtain ⟨hb, h⟩ := h
    exact ⟨hb, by rw [goOn_host]; exact ih h⟩

/-- In a run without a reset the machine's steps are the command's going on, and the host's words wait (R183). -/
theorem runSteps_of_goesOn {k : Nat} {s t : State} (h : GoesOn k s t) (hr : ∀ e ∈ s.host, e ≠ .reset) :
    runSteps k s = .next { t with host := afterQuiet k s.host } := by
  induction k generalizing s t with
  | zero => cases h; rfl
  | succ k ih =>
    obtain ⟨hb, h⟩ := h
    have hnext : ¬ ResetNext s := fun he => hr _ (List.mem_of_mem_head? he) rfl
    have hrest := ih (goesOn_host h (afterQuiet 1 s.host)) (afterQuiet_noReset hr 1)
    simpa [runSteps, step_busy hb hnext, afterQuiet_succ k s.host] using hrest

/-- Moves one list after another. -/
theorem takeMoves_append {ms ns : List (Option Byte)} {s t : State} :
    takeMoves (ms ++ ns) s = some t ↔ ∃ u, takeMoves ms s = some u ∧ takeMoves ns u = some t := by
  induction ms generalizing s with
  | nil => simp [takeMoves]
  | cons m ms ih =>
    simp only [List.cons_append, takeMoves_cons, ih]
    constructor
    · rintro ⟨s1, hm, u, hu, ht⟩
      exact ⟨u, ⟨s1, hm, hu⟩, ht⟩
    · rintro ⟨u, ⟨s1, hm, hu⟩, ht⟩
      exact ⟨s1, hm, u, hu, ht⟩

/-- A move of the bus agent takes no command out of its wait. -/
theorem stalled_takeMove {s s1 : State} {m : Option Byte} (hs : Stalled s) (hm : takeMove s = (m, s1)) : Stalled s1 := by
  obtain ⟨bi, bd, rfl⟩ := takeMove_eq hm
  exact hs

/-- Silent steps first: each takes the silence and nothing else (R123). -/
theorem goesOn_silences {k m : Nat} {s s1 t : State} (hs : Stalled s)
    (hm : takeMoves (List.replicate k none) s = some s1) (h : GoesOn m s1 t) : GoesOn (k + m) s t := by
  induction k generalizing s with
  | zero => cases hm; rwa [Nat.zero_add]
  | succ k ih =>
    obtain ⟨u, hu, hm⟩ := takeMoves_cons.mp hm
    rw [Nat.succ_add]
    refine ⟨hs.1, ?_⟩
    rw [goOn_waits hs.1 (frameStep_silent hs.2 hu)]
    exact ih (stalled_takeMove hs hu) hm

/-- A step of the frame builder that moves on takes no step of the machine. -/
theorem goesOn_moved {m : Nat} {s u t : State} (hs : s.busy = true) (hu : u.busy = true) (hf : frameStep s = .moved u)
    (h : GoesOn (m + 1) u t) : GoesOn (m + 1) s t :=
  ⟨hs, by rw [goOn_moved hs hu hf]; exact h.2⟩

/-- The end of a FRAME.READ in DONE. -/
theorem goOn_done_read {s : State} (hb : s.busy = true) (hp : s.phase = .done) (hk : s.xfer.kind = .read) :
    goOn s = finishRead s := by
  rw [goOn_busy hb, frameSteps, frameRun_moved 4 (frameStep_done_read hp hk), frameRun_waits 3 (frameStep_idle rfl)]

/-- The state with other bus inputs: what any moves of the bus agent make of it (`takeMoves_eta`). -/
def withInputs (bi : List (Option Byte)) (bd : Nat) (s : State) : State := { s with busIn := bi, busDraws := bd }

/-- The answer of a BusRead does not look at the bus inputs. -/
theorem receiveByte_withInputs (b : Byte) (s : State) (bi : List (Option Byte)) (bd : Nat) :
    receiveByte b (withInputs bi bd s) = withInputs bi bd (receiveByte b s) := by
  cases ha : s.xfer.awaits <;> simp [receiveByte, withInputs, ha, emit]

/-- In R_PHASE, silences and then an answer: the command goes on from the received byte, one step later for each silence. -/
theorem goesOn_answer {k : Nat} {b : Byte} {ms : List (Option Byte)} {s e : State} {bi : List (Option Byte)} {bd : Nat}
    (hb : s.busy = true) (hp : s.phase = .rPhase)
    (hm : takeMoves (List.replicate k none ++ some b :: ms) (withInputs bi bd s) = some e) :
    ∃ bi' bd', takeMoves ms (withInputs bi' bd' (receiveByte b s)) =
        some (withInputs e.busIn e.busDraws (receiveByte b s)) ∧
      ∀ m t, GoesOn (m + 1) (withInputs bi' bd' (receiveByte b s)) t → GoesOn (k + (m + 1)) (withInputs bi bd s) t := by
  obtain ⟨u, hu, hms⟩ := takeMoves_append.mp hm
  obtain ⟨v, hv, hms⟩ := takeMoves_cons.mp hms
  obtain ⟨bi1, bd1, rfl⟩ : ∃ bi1 bd1, u = withInputs bi1 bd1 s := ⟨_, _, (takeMoves_eta hu :)⟩
  obtain ⟨bi2, bd2, rfl⟩ : ∃ bi2 bd2, v = withInputs bi2 bd2 s := ⟨_, _, (takeMove_eta hv :)⟩
  refine ⟨bi2, bd2, takeMoves_transport hms rfl rfl, fun m t h => goesOn_silences ⟨hb, .inr hp⟩ hu ?_⟩
  rw [← receiveByte_withInputs] at h
  have hbusy : (receiveByte b (withInputs bi2 bd2 s)).busy = true := (receiveByte_busy b _).trans hb
  exact goesOn_moved (s := withInputs bi1 bd1 s) hb hbusy (frameStep_byte hp hv) h

/-- After the low byte the high byte is awaited. -/
theorem receiveByte_awaits_hi {b : Byte} {s : State} (h : s.xfer.awaits = .lo) : (receiveByte b s).xfer.awaits = .hi := by
  simp [receiveByte, h]

/-- Only the PEC byte ends R_PHASE. -/
theorem receiveByte_phase_stays {b : Byte} {s : State} (h : s.xfer.awaits ≠ .pec) : (receiveByte b s).phase = s.phase := by
  cases ha : s.xfer.awaits with
  | lo => simp [receiveByte, ha]
  | hi => simp [receiveByte, ha]
  | pec => exact absurd ha h

/-- Three answers in a row are the bytes of `bytesReceived`. -/
theorem bytesReceived_eq {turn moved : State} (lo hi pec : Byte) (ha : turn.xfer.awaits = .lo)
    (hm : moved = withInputs moved.busIn moved.busDraws turn) :
    withInputs moved.busIn moved.busDraws (receiveByte pec (receiveByte hi (receiveByte lo (startReadPhase turn)))) =
      bytesReceived lo hi pec turn moved := by
  rw [receiveByte_lo (s := startReadPhase turn) ha, receiveByte_hi (b := hi) (by rfl), receiveByte_pec (b := pec) (by rfl),
    hm]
  apply State.ext
  all_goals simp [bytesReceived, withInputs, Config.pReadLen]

/-- From TURN to the end of FRAME.READ, with any silences before each of the three answers. -/
theorem goesOn_turn_answered {turn moved : State} {k1 k2 k3 : Nat} {lo hi pec : Byte} (hb : turn.busy = true)
    (hp : turn.phase = .turn) (hk : turn.xfer.kind = .read) (ha : turn.xfer.awaits = .lo)
    (hm : takeMoves (List.replicate k1 none ++ some lo :: (List.replicate k2 none ++ some hi ::
      (List.replicate k3 none ++ [some pec]))) turn = some moved) :
    GoesOn (k1 + (k2 + (k3 + 1))) turn (finishRead (bytesReceived lo hi pec turn moved)) := by
  let s0 := startReadPhase turn
  let s1 := receiveByte lo s0
  let s2 := receiveByte hi s1
  let s3 := receiveByte pec s2
  have ha1 : s1.xfer.awaits = .hi := receiveByte_awaits_hi ha
  have hp1 : s1.phase = .rPhase := receiveByte_phase_stays (s := s0) (by simp [s0, ha])
  have hp2 : s2.phase = .rPhase := (receiveByte_phase_stays (by simp [ha1])).trans hp1
  have hb1 : s1.busy = true := (receiveByte_busy lo s0).trans hb
  have hb2 : s2.busy = true := (receiveByte_busy hi s1).trans hb1
  have hb3 : s3.busy = true := (receiveByte_busy pec s2).trans hb2
  have hstart := takeMoves_transport (u := withInputs turn.busIn turn.busDraws s0) hm rfl rfl
  obtain ⟨bi1, bd1, m1, g1⟩ := goesOn_answer (s := s0) hb rfl hstart
  obtain ⟨bi2, bd2, m2, g2⟩ := goesOn_answer hb1 hp1 m1
  obtain ⟨bi3, bd3, m3, g3⟩ := goesOn_answer hb2 hp2 m2
  have hend : withInputs bi3 bd3 s3 = bytesReceived lo hi pec turn moved :=
    (Option.some.inj m3).trans (bytesReceived_eq lo hi pec ha (takeMoves_eta hm))
  have hlast : GoesOn 1 (withInputs bi3 bd3 s3) (finishRead (bytesReceived lo hi pec turn moved)) := by
    refine ⟨hb3, ?_⟩
    rw [hend]
    exact (goOn_done_read (by rw [← hend]; exact hb3) rfl (by exact hk)).symm
  exact goesOn_moved (u := s0) hb hb (frameStep_turn hp) (g1 (k2 + k3) _ (g2 k3 _ (g3 0 _ hlast)))

/-- FRAME.READ's end-of-command updates on the bytes received since TURN (R114, R127). -/
theorem finishRead_bytesReceived (c st lo hi pec : Byte) {s u : State} (bi : List (Option Byte)) (bd : Nat)
    (hu : u = withInputs u.busIn u.busDraws s) :
    finishRead (bytesReceived lo hi pec (readTurn c st s u) (withInputs bi bd (readTurn c st s u))) =
      readDone c st lo hi pec s (withInputs bi bd s) := by
  rw [hu]
  apply State.ext
  case err => exact finishRead_err_of_status rfl
  all_goals simp [readDone, bytesReceived, readTurn, readPecBytes, joinBytes, readEvents, withInputs]

/-- Going on with a FRAME.READ just accepted, its BusEnd answered. -/
theorem goOn_acceptRead_answered {s s1 : State} {st : Byte} (c : Byte) (hb : s.busy = false)
    (hm : takeMove s = (some st, s1)) : goOn (acceptRead c s) = readTurn c st s s1 :=
  Host.Outcome.next.inj ((exec_frameRead c hb).symm.trans (exec_frameRead_answered c hb hm))

/-- Going on with a FRAME.WRITE just accepted, its BusEnd answered. -/
theorem goOn_acceptWrite_answered {s moved : State} {st : Byte} (c : Byte) (v : Value) (hb : s.busy = false)
    (hm : takeMove s = (some st, moved)) : goOn (acceptWrite c v s) = writeDone c v st s moved :=
  Host.Outcome.next.inj ((exec_frameWrite c v hb).symm.trans (exec_frameWrite_answered c v hb hm))

/-- From its start to its end a FRAME.READ goes on once more than there are silences, and once more for TURN. -/
theorem goesOn_read {s moved : State} {k0 k1 k2 k3 : Nat} {st lo hi pec : Byte} (c : Byte) (hb : s.busy = false)
    (hm : takeMoves (List.replicate k0 none ++ some st :: (List.replicate k1 none ++ some lo :: (List.replicate k2 none ++
      some hi :: (List.replicate k3 none ++ [some pec])))) s = some moved) :
    GoesOn (k0 + (k1 + (k2 + (k3 + 1)) + 1)) (acceptRead c s) (readDone c st lo hi pec s moved) := by
  obtain ⟨u, hu, hms⟩ := takeMoves_append.mp hm
  obtain ⟨v, hv, hrest⟩ := takeMoves_cons.mp hms
  obtain ⟨bi, bd, rfl⟩ : ∃ bi bd, u = withInputs bi bd s := ⟨_, _, takeMoves_eta hu⟩
  have hturn : goOn (acceptRead c (withInputs bi bd s)) = readTurn c st s v :=
    goOn_acceptRead_answered (s := withInputs bi bd s) c hb hv
  have hread := goesOn_turn_answered (turn := readTurn c st s v) rfl rfl rfl rfl (takeMoves_transport hrest rfl rfl)
  have hdone : finishRead (bytesReceived lo hi pec (readTurn c st s v)
      (withInputs moved.busIn moved.busDraws (readTurn c st s v))) = readDone c st lo hi pec s moved :=
    (finishRead_bytesReceived (s := s) c st lo hi pec _ _ (takeMove_eta hv :)).trans
      (congrArg (readDone c st lo hi pec s) (takeMoves_eta hm).symm)
  have hwait : takeMoves (List.replicate k0 none) (acceptRead c s) = some (acceptRead c (withInputs bi bd s)) :=
    (takeMoves_transport (u := acceptRead c s) hu rfl rfl :)
  refine goesOn_silences ⟨rfl, .inl rfl⟩ hwait ⟨rfl, ?_⟩
  rw [hturn, ← hdone]
  exact hread

/-- From its start to its end a FRAME.WRITE goes on once more than there are silences. -/
theorem goesOn_write {s moved : State} {k : Nat} {st : Byte} (c : Byte) (v : Value) (hb : s.busy = false)
    (hm : takeMoves (List.replicate k none ++ [some st]) s = some moved) :
    GoesOn (k + 1) (acceptWrite c v s) (writeDone c v st s moved) := by
  obtain ⟨u, hu, hms⟩ := takeMoves_append.mp hm
  obtain ⟨w, hw, hnil⟩ := takeMoves_cons.mp hms
  cases hnil
  obtain ⟨bi, bd, rfl⟩ : ∃ bi bd, u = withInputs bi bd s := ⟨_, _, takeMoves_eta hu⟩
  have hdone : goOn (acceptWrite c v (withInputs bi bd s)) = writeDone c v st s moved :=
    goOn_acceptWrite_answered (s := withInputs bi bd s) c v hb hw
  have hwait : takeMoves (List.replicate k none) (acceptWrite c v s) = some (acceptWrite c v (withInputs bi bd s)) :=
    (takeMoves_transport (u := acceptWrite c v s) hu rfl rfl :)
  refine goesOn_silences ⟨rfl, .inl rfl⟩ hwait ⟨rfl, ?_⟩
  exact hdone.symm

/-- A frame command whose word is first among the host's events, and its going on, as a run of the machine: the step that
accepts it goes on with it already. -/
theorem runSteps_of_accepted {k : Nat} {s t accepted : State} {w : CommandWord} {rest : List HostEvent} {i : Instr}
    (hb : s.busy = false) (hh : s.host = .word w :: rest) (hd : decode w = .command i)
    (he : exec i { s with host := rest } = .next (goOn accepted)) (hhost : accepted.host = rest)
    (hr : ∀ e ∈ rest, e ≠ .reset) (h : GoesOn (k + 1) accepted t) :
    runSteps (k + 1) s = .next { t with host := afterQuiet k rest } := by
  have hgo : (goOn accepted).host = rest := (goOn_same accepted).host.trans hhost
  have hrun := runSteps_of_goesOn h.2 (hgo ▸ hr)
  simpa [runSteps, step_command hb hh hd, he, hgo] using hrun

end Sys2Proof.Machine
end

section
/-! Proofs of the statements about silent and delayed bus agents (41_frame_builder.md sections 3 and 4; 20_memory.md
section 4; 95_test_vectors.md section 3.3). -/

namespace Sys2Proof.Machine

/-- Settles O40: silences add steps and change nothing, so the run ends in the state of `goesOn_read`. -/
theorem delayedFrameReadEndsTheSame : Obligations.DelayedFrameReadEndsTheSame := by
  unfold Obligations.DelayedFrameReadEndsTheSame
  intro c s w rest k0 k1 k2 k3 st lo hi pec moved hb hh hd hr hm
  let handed : State := { s with host := rest }
  have hgoes := goesOn_read (s := handed) c hb (takeMoves_transport hm rfl rfl)
  have hcount : k0 + (k1 + (k2 + (k3 + 1)) + 1) = 1 + (k0 + k1 + k2 + k3) + 1 := by omega
  rw [hcount] at hgoes
  have hrun := runSteps_of_accepted hb hh hd (exec_frameRead (s := handed) c hb) rfl hr hgoes
  rw [show 2 + (k0 + k1 + k2 + k3) = 1 + (k0 + k1 + k2 + k3) + 1 by omega, hrun, takeMoves_eta hm]
  rfl

/-- Settles O41: silences add steps and change nothing, so the run ends in the state of `goesOn_write`. -/
theorem delayedFrameWriteEndsTheSame : Obligations.DelayedFrameWriteEndsTheSame := by
  unfold Obligations.DelayedFrameWriteEndsTheSame
  intro c v s w rest k st moved hb hh hd hr hm
  let handed : State := { s with host := rest }
  have hgoes := goesOn_write (s := handed) c v hb (takeMoves_transport hm rfl rfl)
  have hrun := runSteps_of_accepted hb hh hd (exec_frameWrite (s := handed) c v hb) rfl hr hgoes
  rw [Nat.add_comm 1 k, hrun, takeMoves_eta hm]
  rfl

/-- Settles O39: silent steps take the silences and the pauses and nothing else, and a reset event always resets. -/
theorem stalledFrameLeavesOnlyByReset : Obligations.StalledFrameLeavesOnlyByReset := by
  unfold Obligations.StalledFrameLeavesOnlyByReset
  constructor
  · intro k s s1 hs hm hr
    have hrun := runSteps_of_goesOn (goesOn_silences (m := 0) hs hm rfl) hr
    refine ⟨_, hrun, rfl, ?_⟩
    rw [takeMoves_eta hm]
    exact ⟨hs, rfl, hostWords_afterQuiet k s.host, rfl, rfl, rfl, rfl, rfl, rfl, rfl⟩
  · intro s rest _ hh
    exact ⟨_, step_reset hh, rfl⟩

/-- FRAME.READ whose bus agent stays silent at BusEnd waits with the start-of-frame updates only (R110, R123). -/
theorem exec_frameRead_silent {s s1 : State} (c : Byte) (hb : s.busy = false) (hm : takeMove s = (none, s1)) :
    exec (.frameRead c) s = .next { acceptRead c s with busIn := s1.busIn, busDraws := s1.busDraws } := by
  have hm' := takeMove_transport (u := acceptRead c s) hm rfl rfl
  rw [exec_frameRead c hb, goOn_waits rfl (frameStep_silent (.inl rfl) hm')]

/-- As many answers as are asked for. -/
theorem busAnswers_length {n : Nat} {bytes : List Byte} {s t : State} (h : busAnswers n s = some (bytes, t)) :
    bytes.length = n := by
  induction n generalizing bytes s with
  | zero => cases h; rfl
  | succ n ih =>
    unfold busAnswers at h
    split at h
    · split at h
      · rename_i hr
        cases h
        simp [ih hr]
      · cases h
    · cases h

/-- A FRAME.READ that waits in R_PHASE after it has received `bytes` since s was there: the answers and the BusReads after
them are logged, and no register has changed. -/
structure WaitsForByte (bytes : List Byte) (s t : State) : Prop where
  busy : t.busy = true
  phase : t.phase = .rPhase
  err : t.err = s.err
  lastCrc : t.lastCrc = s.lastCrc
  lastPec : t.lastPec = s.lastPec
  resp : t.resp = s.resp
  busLog : t.busLog = s.busLog ++ bytes.flatMap fun b => [.answer b, .busRead]

/-- A BusRead's answer before the last logs itself and the next BusRead. -/
theorem receiveByte_busLog {b : Byte} {s : State} (h : s.xfer.awaits ≠ .pec) :
    (receiveByte b s).busLog = s.busLog ++ [.answer b, .busRead] := by
  cases ha : s.xfer.awaits with
  | lo => simp [receiveByte, ha]
  | hi => simp [receiveByte, ha]
  | pec => exact absurd ha h

/-- An answer before the last leaves one BusRead less. -/
theorem readsLeft_receiveByte {b : Byte} {s : State} (h : s.xfer.awaits ≠ .pec) :
    readsLeft (receiveByte b s).xfer.awaits + 1 = readsLeft s.xfer.awaits := by
  cases ha : s.xfer.awaits with
  | lo => simp [receiveByte, readsLeft, ha]
  | hi => simp [receiveByte, readsLeft, ha]
  | pec => exact absurd ha h

/-- In R_PHASE, answers before the last and then silence: going on takes them all and waits for the next byte. -/
theorem goOn_waitsForByte {bytes : List Byte} {s s1 s2 : State} (hb : s.busy = true) (hp : s.phase = .rPhase)
    (hlen : bytes.length ≤ readsLeft s.xfer.awaits) (hm : takeMoves (bytes.map some) s = some s1)
    (hsilent : takeMove s1 = (none, s2)) : WaitsForByte bytes s (goOn s) := by
  induction bytes generalizing s s1 s2 with
  | nil =>
    cases hm
    rw [goOn_waits hb (frameStep_silent (.inr hp) hsilent), takeMove_eta hsilent]
    exact ⟨hb, hp, rfl, rfl, rfl, rfl, by simp⟩
  | cons b bytes ih =>
    obtain ⟨u, hu, hm⟩ := takeMoves_cons.mp hm
    have haw : s.xfer.awaits ≠ .pec := by rintro e; simp [e, readsLeft] at hlen
    obtain ⟨bi, bd, rfl⟩ : ∃ bi bd, u = withInputs bi bd s := ⟨_, _, takeMove_eta hu⟩
    let r := withInputs bi bd (receiveByte b s)
    have hr : receiveByte b (withInputs bi bd s) = r := receiveByte_withInputs b s bi bd
    have hbr : r.busy = true := (receiveByte_busy b s).trans hb
    have hpr : r.phase = .rPhase := (receiveByte_phase_stays haw).trans hp
    have hleft : readsLeft r.xfer.awaits + 1 = readsLeft s.xfer.awaits := readsLeft_receiveByte haw
    have hlen' : bytes.length ≤ readsLeft r.xfer.awaits := by rw [List.length_cons] at hlen; omega
    obtain ⟨busy, phase, err, lastCrc, lastPec, resp, busLog⟩ :=
      ih hbr hpr hlen' (takeMoves_transport hm rfl rfl) (takeMove_transport hsilent rfl rfl)
    rw [goOn_moved hb (hr ▸ hbr) (frameStep_byte hp hu), hr]
    refine ⟨busy, phase, err.trans (receiveByte_err b s), lastCrc.trans (receiveByte_lastCrc b s),
      lastPec.trans (receiveByte_lastPec b s), resp.trans (receiveByte_resp b s), busLog.trans ?_⟩
    rw [show r.busLog = _ from receiveByte_busLog haw]
    simp

/-- The bus events of a FRAME.READ that waits for the BusRead after `bytes`: R115's sequence up to that BusRead. -/
theorem readEvents_take (a : BusAddr) (c st : Byte) {bytes : List Byte} (h : bytes.length ≤ 2) :
    (readEvents a c st (bytes.getD 0 0) (bytes.getD 1 0) 0).take (7 + 2 * bytes.length) =
      [.busBegin a, .busWrite c, .busEnd false, .answer st, .wait Config.tTurnaround, .busRequest a 3, .busRead] ++
        bytes.flatMap fun b => [.answer b, .busRead] := by
  match bytes, h with
  | [], _ => rfl
  | [b0], _ => rfl
  | [b0, b1], _ => rfl

/-- A FRAME.READ in TURN whose next answers are `bytes` and then silence. -/
theorem goOn_turn_waitsForByte {bytes : List Byte} {turn s1 s2 : State} (hb : turn.busy = true) (hp : turn.phase = .turn)
    (ha : turn.xfer.awaits = .lo) (hlen : bytes.length ≤ 2) (hm : takeMoves (bytes.map some) turn = some s1)
    (hsilent : takeMove s1 = (none, s2)) : WaitsForByte bytes (startReadPhase turn) (goOn turn) := by
  rw [goOn_moved hb (t := startReadPhase turn) hb (frameStep_turn hp)]
  exact goOn_waitsForByte hb rfl (by simpa [ha, readsLeft] using hlen) (takeMoves_transport hm rfl rfl)
    (takeMove_transport hsilent rfl rfl)

/-- Settles O38: silence at BusEnd ends the accepting step there; silence at a BusRead ends the step from TURN after the
bytes that came. -/
theorem silentBusStallsFrameCommands : Obligations.SilentBusStallsFrameCommands := by
  unfold Obligations.SilentBusStallsFrameCommands
  refine ⟨fun c s s1 hb hm => ?_, fun c s n st bytes s1 s2 hn hb ha hsilent hr => ?_, fun c v s s1 hb hm => ?_⟩
  · rw [exec_frameRead_silent c hb hm, Host.Outcome.next.injEq, takeMove_eta hm]
    apply State.ext
    case err => exact startClear_readErr s
    all_goals rfl
  · obtain ⟨u, hu, hm⟩ := takeMoves_cons.mp (takeMoves_of_busAnswers ha)
    have hlen : bytes.length = n := Nat.succ.inj (busAnswers_length ha)
    have hhost : (readTurn c st s u).host = s.host := (takeMove_same hu).host
    obtain ⟨busy, phase, err, lastCrc, lastPec, resp, busLog⟩ := goOn_turn_waitsForByte (turn := readTurn c st s u) rfl rfl rfl
      (hlen ▸ hn) (takeMoves_transport hm rfl rfl) (takeMove_transport hsilent rfl rfl)
    obtain ⟨bi, bd, rfl⟩ := takeMove_eq hu
    refine ⟨_, runCommand_one (exec_frameRead_answered c hb hu) (step_busy rfl (by rwa [ResetNext, hhost])), busy, phase, err,
      lastCrc, lastPec, resp, busLog.trans ?_⟩
    subst hlen
    rw [readEvents_take s.addr c st hn]
    simp [readTurn, Config.pReadLen]
  · exact ⟨_, exec_frameWrite_silent c v hb hm, rfl, rfl, startClear_readErr s, rfl, rfl, rfl⟩

end Sys2Proof.Machine
end
